-- ==== Sys2Proof/Word.lean ====
section
/-! DEFINITION. The unsigned word types of the machine (spec/00_scope.md R6, R9): bytes, 16-bit words, and the
three widths a field of an instruction word can have (spec/30_encoding.md R77). -/

namespace Sys2Proof

/-- An 8-bit value: a V register, a timer, SP, a memory byte, the field kk. -/
abbrev Byte := BitVec 8

/-- A 16-bit value: I, pc, a stack slot, an instruction word. -/
abbrev Word := BitVec 16

/-- A 4-bit field of an instruction word; as `x` or `y` it is a register number 0 to 15. -/
abbrev Nibble := BitVec 4

/-- The 12-bit field nnn. -/
abbrev Addr12 := BitVec 12

end Sys2Proof
end

