-- ==== Sys2Proof/Machine/Flags.lean ====
section
/-! DEFINITION. Every value the machine writes to VF as a flag (spec/10_state.md R21, decision D24 of the spec): the
8-bit numbers 0x00 and 0x01. -/

namespace Sys2Proof.Machine

/-- A condition as a flag value (R21). -/
def flag (condition : Bool) : Byte := if condition then 0x01 else 0x00

/-- The carry of 8xy4 (R127): the 9-bit sum is above 255. -/
def carryFlag (a b : Byte) : Byte := flag (decide (a.toNat + b.toNat > 255))

/-- The flag of 8xy5 and, with its operands exchanged, of 8xy7 (R128, R129): strictly greater, as unsigned numbers. -/
def greaterFlag (a b : Byte) : Byte := flag (decide (a.toNat > b.toNat))

/-- The bit 8xy6 shifts out (R135). -/
def lowBitFlag (a : Byte) : Byte := flag (a.getLsbD 0)

/-- The bit 8xyE shifts out (R136). -/
def highBitFlag (a : Byte) : Byte := flag (a.getLsbD 7)

end Sys2Proof.Machine
end

