-- ==== Sys2Proof/Config.lean ====
section
/-! DEFINITION. What is fixed for the machine (spec/00_scope.md R6, R7): sizes and addresses, the default of the
parameter FONT, the two values of the parameter UNMATCHED_POLICY, and the free bytes of Cxkk. -/

namespace Sys2Proof

/-- `UNMATCHED_POLICY` (R7, R90): what a Cycle does with a word that matches none of the 34 forms. -/
inductive UnmatchedPolicy where
  | nop    -- the document's default: pc advances by 2 and nothing else changes
  | fault  -- the strict alternative: DecodeError
deriving DecidableEq, Repr

/-- `MEM_SIZE` (R6). -/
def Config.memSize : Nat := 4096

/-- `FONT_BASE` (R6). -/
def Config.fontBase : Nat := 0x050

/-- `PROG_BASE` (R6): where a Load puts its first byte. -/
def Config.progBase : Nat := 0x200

/-- `RESET_PC` (R7; decision D2 of the spec). -/
def Config.resetPc : Word := 0x0200

/-- Glyphs 0 to 7 of the default `FONT` (R52). PRESUMED: the spec takes these bytes from general knowledge; a claim
that rests on one of them is unsafe (log entry 7). -/
def Config.fontLow : List Byte :=
  [0xF0, 0x90, 0x90, 0x90, 0xF0,  0x20, 0x60, 0x20, 0x20, 0x70,
   0xF0, 0x10, 0xF0, 0x80, 0xF0,  0xF0, 0x10, 0xF0, 0x10, 0xF0,
   0x90, 0x90, 0xF0, 0x10, 0x10,  0xF0, 0x80, 0xF0, 0x10, 0xF0,
   0xF0, 0x80, 0xF0, 0x90, 0xF0,  0xF0, 0x10, 0x20, 0x40, 0x40]

/-- Glyphs 8 to F of the default `FONT` (R52), PRESUMED like `Config.fontLow`. -/
def Config.fontHigh : List Byte :=
  [0xF0, 0x90, 0xF0, 0x90, 0xF0,  0xF0, 0x90, 0xF0, 0x10, 0xF0,
   0xF0, 0x90, 0xF0, 0x90, 0x90,  0xE0, 0x90, 0xE0, 0x90, 0xE0,
   0xF0, 0x80, 0x80, 0x80, 0xF0,  0xE0, 0x90, 0x90, 0x90, 0xE0,
   0xF0, 0x80, 0xF0, 0x80, 0xF0,  0xF0, 0x80, 0xF0, 0x80, 0x80]

/-- The default of the parameter `FONT[0..79]` (R7, R52), glyph d at 5 * d. -/
def Config.font : List Byte := Config.fontLow ++ Config.fontHigh

/-- The same 80 bytes as the value of the parameter. -/
def Config.defaultFont : Vector Byte 80 := ⟨Config.font.toArray, rfl⟩

/-- The input `RND` (R36, R132): the byte of draw number n. It has no body: nothing can be proved of its value, so a
statement about one Cxkk holds for every source of bytes, which is safe. DESIGN CHOICE, unsafe for a claim that compares
two runs: two draws of one number are the same byte, in one run or in two (log entry 6). -/
opaque Config.rnd : Nat → Byte

end Sys2Proof
end

