-- ==== Sys2Proof/Syntax.lean ====
section
/-! DEFINITION. The 34 instructions (spec/30_encoding.md R84), one constructor per row of spec/opcode_table.json and
in its order, with the fields of R77 as operands. -/

namespace Sys2Proof

/-- An instruction. The name of each constructor follows the mnemonic of R84; the comment gives its form. -/
inductive Instr where
  | cls                                       -- 00E0
  | ret                                       -- 00EE
  | jp (nnn : Addr12)                         -- 1nnn
  | call (nnn : Addr12)                       -- 2nnn
  | seVxKk (x : Nibble) (kk : Byte)           -- 3xkk
  | sneVxKk (x : Nibble) (kk : Byte)          -- 4xkk
  | seVxVy (x y : Nibble)                     -- 5xy0
  | ldVxKk (x : Nibble) (kk : Byte)           -- 6xkk
  | addVxKk (x : Nibble) (kk : Byte)          -- 7xkk
  | ldVxVy (x y : Nibble)                     -- 8xy0
  | orVxVy (x y : Nibble)                     -- 8xy1
  | andVxVy (x y : Nibble)                    -- 8xy2
  | xorVxVy (x y : Nibble)                    -- 8xy3
  | addVxVy (x y : Nibble)                    -- 8xy4
  | subVxVy (x y : Nibble)                    -- 8xy5
  | shrVx (x y : Nibble)                      -- 8xy6; y is decoded and unused (R137)
  | subnVxVy (x y : Nibble)                   -- 8xy7
  | shlVx (x y : Nibble)                      -- 8xyE; y is decoded and unused (R137)
  | sneVxVy (x y : Nibble)                    -- 9xy0
  | ldINnn (nnn : Addr12)                     -- Annn
  | jpV0 (nnn : Addr12)                       -- Bnnn
  | rndVxKk (x : Nibble) (kk : Byte)          -- Cxkk
  | drw (x y n : Nibble)                      -- Dxyn
  | skp (x : Nibble)                          -- Ex9E
  | sknp (x : Nibble)                         -- ExA1
  | ldVxDt (x : Nibble)                       -- Fx07
  | ldVxK (x : Nibble)                        -- Fx0A
  | ldDtVx (x : Nibble)                       -- Fx15
  | ldStVx (x : Nibble)                       -- Fx18
  | addIVx (x : Nibble)                       -- Fx1E
  | ldFVx (x : Nibble)                        -- Fx29
  | ldBVx (x : Nibble)                        -- Fx33
  | ldMemIVx (x : Nibble)                     -- Fx55
  | ldVxMemI (x : Nibble)                     -- Fx65
deriving DecidableEq, Repr

end Sys2Proof
end

