-- ==== Sys2Proof/WellFormed.lean ====
section
/-! DEFINITION. The match and mask table (spec/30_encoding.md R80, R84) and what it makes well formed. A WORD is well
formed when exactly one row matches it; the others are the unmatched words of R91. An INSTRUCTION has no ill-formed
term: its fields have the widths of R77 by their types, and no field value of a form is illegal (R92). -/

namespace Sys2Proof

/-- One row of R84: a word belongs to the form when `word &&& mask = value`. -/
structure OpcodeRow where
  form : String
  value : Word
  mask : Word
deriving DecidableEq, Repr

/-- Rows 1 to 9 of R84. -/
def opcodeRows1 : List OpcodeRow :=
  [⟨"00E0", 0x00E0, 0xFFFF⟩, ⟨"00EE", 0x00EE, 0xFFFF⟩, ⟨"1nnn", 0x1000, 0xF000⟩,
   ⟨"2nnn", 0x2000, 0xF000⟩, ⟨"3xkk", 0x3000, 0xF000⟩, ⟨"4xkk", 0x4000, 0xF000⟩,
   ⟨"5xy0", 0x5000, 0xF00F⟩, ⟨"6xkk", 0x6000, 0xF000⟩, ⟨"7xkk", 0x7000, 0xF000⟩]

/-- Rows 10 to 18 of R84. -/
def opcodeRows2 : List OpcodeRow :=
  [⟨"8xy0", 0x8000, 0xF00F⟩, ⟨"8xy1", 0x8001, 0xF00F⟩, ⟨"8xy2", 0x8002, 0xF00F⟩,
   ⟨"8xy3", 0x8003, 0xF00F⟩, ⟨"8xy4", 0x8004, 0xF00F⟩, ⟨"8xy5", 0x8005, 0xF00F⟩,
   ⟨"8xy6", 0x8006, 0xF00F⟩, ⟨"8xy7", 0x8007, 0xF00F⟩, ⟨"8xyE", 0x800E, 0xF00F⟩]

/-- Rows 19 to 25 of R84. -/
def opcodeRows3 : List OpcodeRow :=
  [⟨"9xy0", 0x9000, 0xF00F⟩, ⟨"Annn", 0xA000, 0xF000⟩, ⟨"Bnnn", 0xB000, 0xF000⟩,
   ⟨"Cxkk", 0xC000, 0xF000⟩, ⟨"Dxyn", 0xD000, 0xF000⟩, ⟨"Ex9E", 0xE09E, 0xF0FF⟩,
   ⟨"ExA1", 0xE0A1, 0xF0FF⟩]

/-- Rows 26 to 34 of R84. -/
def opcodeRows4 : List OpcodeRow :=
  [⟨"Fx07", 0xF007, 0xF0FF⟩, ⟨"Fx0A", 0xF00A, 0xF0FF⟩, ⟨"Fx15", 0xF015, 0xF0FF⟩,
   ⟨"Fx18", 0xF018, 0xF0FF⟩, ⟨"Fx1E", 0xF01E, 0xF0FF⟩, ⟨"Fx29", 0xF029, 0xF0FF⟩,
   ⟨"Fx33", 0xF033, 0xF0FF⟩, ⟨"Fx55", 0xF055, 0xF0FF⟩, ⟨"Fx65", 0xF065, 0xF0FF⟩]

/-- The opcode table, in the order of R84. -/
def opcodeTable : List OpcodeRow := opcodeRows1 ++ opcodeRows2 ++ opcodeRows3 ++ opcodeRows4

/-- R80: the row's test on an instruction word. -/
def OpcodeRow.covers (r : OpcodeRow) (w : Word) : Bool := w &&& r.mask == r.value

/-- A word is well formed when exactly one row of the table matches it (R82). -/
def wordWellFormed (w : Word) : Bool := (opcodeTable.filter fun r => r.covers w).length == 1

/-- The form of an instruction: the name of its row in R84. -/
def Instr.form : Instr → String
  | .cls => "00E0"
  | .ret => "00EE"
  | .jp _ => "1nnn"
  | .call _ => "2nnn"
  | .seVxKk _ _ => "3xkk"
  | .sneVxKk _ _ => "4xkk"
  | .seVxVy _ _ => "5xy0"
  | .ldVxKk _ _ => "6xkk"
  | .addVxKk _ _ => "7xkk"
  | .ldVxVy _ _ => "8xy0"
  | .orVxVy _ _ => "8xy1"
  | .andVxVy _ _ => "8xy2"
  | .xorVxVy _ _ => "8xy3"
  | .addVxVy _ _ => "8xy4"
  | .subVxVy _ _ => "8xy5"
  | .shrVx _ _ => "8xy6"
  | .subnVxVy _ _ => "8xy7"
  | .shlVx _ _ => "8xyE"
  | .sneVxVy _ _ => "9xy0"
  | .ldINnn _ => "Annn"
  | .jpV0 _ => "Bnnn"
  | .rndVxKk _ _ => "Cxkk"
  | .drw _ _ _ => "Dxyn"
  | .skp _ => "Ex9E"
  | .sknp _ => "ExA1"
  | .ldVxDt _ => "Fx07"
  | .ldVxK _ => "Fx0A"
  | .ldDtVx _ => "Fx15"
  | .ldStVx _ => "Fx18"
  | .addIVx _ => "Fx1E"
  | .ldFVx _ => "Fx29"
  | .ldBVx _ => "Fx33"
  | .ldMemIVx _ => "Fx55"
  | .ldVxMemI _ => "Fx65"

/-- R92: within a form no field value is illegal, so every instruction is well formed. -/
def Instr.wellFormed (_ : Instr) : Bool := true

end Sys2Proof
end

