-- ==== Sys2Proof/Decode.lean ====
section
/-! DEFINITION. The decoder (spec/30_encoding.md R75 to R92), total on words and on bytes, and after it the encoder
(R96). Both are written from the forms of R84, nibble by nibble; the match and mask table of WellFormed.lean is a
second reading of the same rule, and Laws/Decode.lean shows that the two agree. -/

namespace Sys2Proof

/-! ## Fields (R77) -/

/-- `op`, bits 15 to 12. -/
def fieldOp (w : Word) : Nibble := w.extractLsb' 12 4
/-- `x`, bits 11 to 8. -/
def fieldX (w : Word) : Nibble := w.extractLsb' 8 4
/-- `y`, bits 7 to 4. -/
def fieldY (w : Word) : Nibble := w.extractLsb' 4 4
/-- `n`, bits 3 to 0. -/
def fieldN (w : Word) : Nibble := w.extractLsb' 0 4
/-- `kk`, bits 7 to 0. -/
def fieldKk (w : Word) : Byte := w.extractLsb' 0 8
/-- `nnn`, bits 11 to 0. -/
def fieldNnn (w : Word) : Addr12 := w.extractLsb' 0 12

/-! ## Decoding a word -/

/-- What the decoder answers: one of the 34 forms, or the word it rejects (R82: the closed set plus `Unmatched`). -/
inductive Decoded where
  | instr (i : Instr)
  | unmatched (w : Word)
deriving DecidableEq, Repr

/-- `op` 0: only the words 00E0 and 00EE (R85). -/
def decodeOp0 (w : Word) : Decoded :=
  if w = 0x00E0 then .instr .cls
  else if w = 0x00EE then .instr .ret
  else .unmatched w

/-- `op` 5: nibble 0 is 0 (R85). -/
def decodeOp5 (w : Word) : Decoded :=
  if fieldN w = 0x0 then .instr (.seVxVy (fieldX w) (fieldY w)) else .unmatched w

/-- `op` 8: nibble 0 selects the operation (R85). -/
def decodeOp8 (w : Word) : Decoded :=
  if fieldN w = 0x0 then .instr (.ldVxVy (fieldX w) (fieldY w))
  else if fieldN w = 0x1 then .instr (.orVxVy (fieldX w) (fieldY w))
  else if fieldN w = 0x2 then .instr (.andVxVy (fieldX w) (fieldY w))
  else if fieldN w = 0x3 then .instr (.xorVxVy (fieldX w) (fieldY w))
  else if fieldN w = 0x4 then .instr (.addVxVy (fieldX w) (fieldY w))
  else if fieldN w = 0x5 then .instr (.subVxVy (fieldX w) (fieldY w))
  else if fieldN w = 0x6 then .instr (.shrVx (fieldX w) (fieldY w))
  else if fieldN w = 0x7 then .instr (.subnVxVy (fieldX w) (fieldY w))
  else if fieldN w = 0xE then .instr (.shlVx (fieldX w) (fieldY w))
  else .unmatched w

/-- `op` 9: nibble 0 is 0 (R85). -/
def decodeOp9 (w : Word) : Decoded :=
  if fieldN w = 0x0 then .instr (.sneVxVy (fieldX w) (fieldY w)) else .unmatched w

/-- `op` E: the low byte selects the key test (R85). -/
def decodeOpE (w : Word) : Decoded :=
  if fieldKk w = 0x9E then .instr (.skp (fieldX w))
  else if fieldKk w = 0xA1 then .instr (.sknp (fieldX w))
  else .unmatched w

/-- `op` F: the low byte selects the instruction (R85). -/
def decodeOpF (w : Word) : Decoded :=
  if fieldKk w = 0x07 then .instr (.ldVxDt (fieldX w))
  else if fieldKk w = 0x0A then .instr (.ldVxK (fieldX w))
  else if fieldKk w = 0x15 then .instr (.ldDtVx (fieldX w))
  else if fieldKk w = 0x18 then .instr (.ldStVx (fieldX w))
  else if fieldKk w = 0x1E then .instr (.addIVx (fieldX w))
  else if fieldKk w = 0x29 then .instr (.ldFVx (fieldX w))
  else if fieldKk w = 0x33 then .instr (.ldBVx (fieldX w))
  else if fieldKk w = 0x55 then .instr (.ldMemIVx (fieldX w))
  else if fieldKk w = 0x65 then .instr (.ldVxMemI (fieldX w))
  else .unmatched w

/-- The decoder (R80 to R85): the major opcode selects the form or the group of forms. -/
def decodeWord (w : Word) : Decoded :=
  if fieldOp w = 0x0 then decodeOp0 w
  else if fieldOp w = 0x1 then .instr (.jp (fieldNnn w))
  else if fieldOp w = 0x2 then .instr (.call (fieldNnn w))
  else if fieldOp w = 0x3 then .instr (.seVxKk (fieldX w) (fieldKk w))
  else if fieldOp w = 0x4 then .instr (.sneVxKk (fieldX w) (fieldKk w))
  else if fieldOp w = 0x5 then decodeOp5 w
  else if fieldOp w = 0x6 then .instr (.ldVxKk (fieldX w) (fieldKk w))
  else if fieldOp w = 0x7 then .instr (.addVxKk (fieldX w) (fieldKk w))
  else if fieldOp w = 0x8 then decodeOp8 w
  else if fieldOp w = 0x9 then decodeOp9 w
  else if fieldOp w = 0xA then .instr (.ldINnn (fieldNnn w))
  else if fieldOp w = 0xB then .instr (.jpV0 (fieldNnn w))
  else if fieldOp w = 0xC then .instr (.rndVxKk (fieldX w) (fieldKk w))
  else if fieldOp w = 0xD then .instr (.drw (fieldX w) (fieldY w) (fieldN w))
  else if fieldOp w = 0xE then decodeOpE w
  else decodeOpF w

/-! ## Decoding bytes -/

/-- R54: the byte at the lower address is the high byte of the word. -/
def wordOfBytes (hi lo : Byte) : Word := hi ++ lo

/-- The byte a word stores at the lower address (R54). -/
def highByte (w : Word) : Byte := w.extractLsb' 8 8

/-- The byte a word stores at the higher address (R54). -/
def lowByte (w : Word) : Byte := w.extractLsb' 0 8

/-- Two bytes, lower address first, as an instruction (R75: one length only). -/
def decodeBytes (hi lo : Byte) : Decoded := decodeWord (wordOfBytes hi lo)

/-- The first instruction of a byte sequence and the bytes after it; none where fewer than two bytes are left. -/
def decodeStream : List Byte → Option (Decoded × List Byte)
  | hi :: lo :: rest => some (decodeBytes hi lo, rest)
  | _ => none

/-- The instruction word of a row of spec/opcode_table.json whose bits are `w`; the bits from `nbits` up are 0. -/
def tableWord (nbits w : Nat) : Word := BitVec.ofNat 16 (w % 2 ^ nbits)

/-- What the decoder reads from an instruction laid out as the hardware stores it (R54). -/
def decodeTableWord (nbits w : Nat) : Option Instr :=
  match decodeBytes (highByte (tableWord nbits w)) (lowByte (tableWord nbits w)) with
  | .instr i => some i
  | .unmatched _ => none

/-! ## Encoding (R96) -/

/-- Format NNN. -/
def encodeNnn (op : Nibble) (nnn : Addr12) : Word := op ++ nnn

/-- Format XKK, and format X with a fixed low byte. -/
def encodeXkk (op x : Nibble) (kk : Byte) : Word := op ++ x ++ kk

/-- Formats XY (with a fixed last nibble) and XYN. -/
def encodeXyn (op x y n : Nibble) : Word := op ++ x ++ y ++ n

/-- The word of an instruction (R96). -/
def encode : Instr → Word
  | .cls => 0x00E0
  | .ret => 0x00EE
  | .jp nnn => encodeNnn 0x1 nnn
  | .call nnn => encodeNnn 0x2 nnn
  | .seVxKk x kk => encodeXkk 0x3 x kk
  | .sneVxKk x kk => encodeXkk 0x4 x kk
  | .seVxVy x y => encodeXyn 0x5 x y 0x0
  | .ldVxKk x kk => encodeXkk 0x6 x kk
  | .addVxKk x kk => encodeXkk 0x7 x kk
  | .ldVxVy x y => encodeXyn 0x8 x y 0x0
  | .orVxVy x y => encodeXyn 0x8 x y 0x1
  | .andVxVy x y => encodeXyn 0x8 x y 0x2
  | .xorVxVy x y => encodeXyn 0x8 x y 0x3
  | .addVxVy x y => encodeXyn 0x8 x y 0x4
  | .subVxVy x y => encodeXyn 0x8 x y 0x5
  | .shrVx x y => encodeXyn 0x8 x y 0x6
  | .subnVxVy x y => encodeXyn 0x8 x y 0x7
  | .shlVx x y => encodeXyn 0x8 x y 0xE
  | .sneVxVy x y => encodeXyn 0x9 x y 0x0
  | .ldINnn nnn => encodeNnn 0xA nnn
  | .jpV0 nnn => encodeNnn 0xB nnn
  | .rndVxKk x kk => encodeXkk 0xC x kk
  | .drw x y n => encodeXyn 0xD x y n
  | .skp x => encodeXkk 0xE x 0x9E
  | .sknp x => encodeXkk 0xE x 0xA1
  | .ldVxDt x => encodeXkk 0xF x 0x07
  | .ldVxK x => encodeXkk 0xF x 0x0A
  | .ldDtVx x => encodeXkk 0xF x 0x15
  | .ldStVx x => encodeXkk 0xF x 0x18
  | .addIVx x => encodeXkk 0xF x 0x1E
  | .ldFVx x => encodeXkk 0xF x 0x29
  | .ldBVx x => encodeXkk 0xF x 0x33
  | .ldMemIVx x => encodeXkk 0xF x 0x55
  | .ldVxMemI x => encodeXkk 0xF x 0x65

/-- The two bytes of an instruction in memory, lower address first (R54, R96). -/
def encodeBytes (i : Instr) : List Byte := [highByte (encode i), lowByte (encode i)]

end Sys2Proof
end

