-- ==== Sys2Proof/Machine/State.lean ====
section
/-! DEFINITION. The state of one core (spec/10_state.md R44), its reset value (R42), and the reasons a step or a host
operation can stop. -/

namespace Sys2Proof.Machine

/-- The six causes of R170. -/
inductive FaultCause where
  | fetchOutOfBounds     -- 1: the fetch of a cycle with pc above 0xFFE (R171)
  | outOfBounds          -- 2: DRW, LD B, LD [I] and LD Vx,[I] past the end of memory (R174)
  | stackOverflow        -- 3: CALL with SP at 15 (R172)
  | stackUnderflow       -- 4: RET with SP at 0 (R173)
  | decodeError          -- 5: an unmatched word under the strict policy (R175)
  | keyIndexOutOfRange   -- 6: SKP and SKNP with V[x] above 15 (R179)
deriving DecidableEq, Repr

/-- The content of the fault latch when it is set (R39): the cause and its `info` number. -/
structure FaultRecord where
  cause : FaultCause
  info : Nat
deriving DecidableEq, Repr

/-- Memory as the bytes that differ from the reset contents, by rising address (`Memory.wf`). -/
abbrev Memory := List Host.Cell

/-- The framebuffer `FB` (R37): 32 rows of 64 pixels. Pixel (x, y) is bit x of row y; the storage order is not
architectural (log entry 8). -/
abbrev Framebuffer := Vector (BitVec 64) 32

/-- The state of the core. All fields but the last four are the record of R44. -/
structure State where
  /-- V0 to VF (R20). -/
  v : Vector Byte 16
  /-- The address register I (R27). -/
  i : Word
  /-- The program counter (R23). -/
  pc : Word
  /-- The stack pointer (R28). -/
  sp : Byte
  /-- The sixteen stack slots (R30). -/
  stk : Vector Word 16
  /-- The delay timer (R33). -/
  dt : Byte
  /-- The sound timer (R34). -/
  st : Byte
  /-- Memory (R38). -/
  mem : Memory
  /-- The framebuffer (R37). -/
  fb : Framebuffer
  /-- The fault latch FAULT (R39). -/
  fault : Option FaultRecord
  /-- The key levels the next cycle sees (R35): an input, written only by the key-event layer (log entry 5). -/
  keys : Vector Bool 16
  /-- The parameter UNMATCHED_POLICY (R7, R90): nothing changes it (log entry 3). -/
  policy : UnmatchedPolicy
  /-- The parameter FONT[0..79] (R7, R52): the bytes a Reset puts at 0x050; nothing changes it (log entry 7). -/
  font : Vector Byte 80
  /-- The model's own: how many bytes have been drawn from RND (R36); it numbers the free values (log entry 6). -/
  rndDraws : Nat
deriving DecidableEq, Repr

/-- The state after Reset (R42, R195), with the parameters at their defaults (R7); for other parameters see
`State.resetWith`. -/
def State.reset : State where
  v := Vector.replicate 16 0
  i := 0
  pc := Config.resetPc
  sp := 0
  stk := Vector.replicate 16 0
  dt := 0
  st := 0
  mem := []
  fb := Vector.replicate 32 0
  fault := none
  keys := Vector.replicate 16 false
  policy := .nop
  font := Config.defaultFont
  rndDraws := 0

/-- Why the model itself stops. The six faults of R170 are not here: they are taken, as a next state with the latch
set (log entry 1). -/
inductive Fault where
  /-- Raised by RET (00EE) when SP is above 15: the slot it names does not exist and no event of the core or the host
  makes such a state (R28, R43). Safe: the model stops where the spec gives no state (log entry 2). -/
  | stackSlotAbsent (sp : Nat)
deriving DecidableEq, Repr

/-- Why an operation is refused. -/
inductive Refusal where
  /-- Raised by an arm of `exec` whose instruction has no meaning yet; no arm is left so. Safe. -/
  | notModelled (mnemonic : String)
  /-- Raised by the host's Load with more than 3584 bytes (R68, R182): nothing is written. Safe. -/
  | loadTooLong (length : Nat)
  /-- Raised by a host read or write of a byte outside 0 to 4095 (R70, R182): nothing changes. Safe. -/
  | hostAddressOutOfBounds (address : Nat)
  /-- Raised by a host write of SP above 15 (R43, R182): nothing changes. Safe. -/
  | hostStackPointerOutOfRange (value : Nat)
deriving DecidableEq, Repr

/-- What an instruction or a step answers. -/
abbrev Result := Host.Outcome State Fault Refusal

/-- What the body of an instruction rule comes to before the cycle commits (R11, R201): the new state, a `raise`, or a
stop of the model. -/
inductive Attempt where
  | done (t : State)
  | raised (cause : FaultCause) (info : Nat)
  | stuck (reason : Fault)
deriving DecidableEq, Repr

end Sys2Proof.Machine
end

