-- ==== Sys2Proof/Machine/Ops.lean ====
section
/-! DEFINITION. The named operations over memory and registers, taking a fault and clearing it, the stack primitives
and the timer tick (spec/00_scope.md R10, 20_memory.md, 40_flow_stack.md section 1, 60_exceptions.md section 3). -/

namespace Sys2Proof.Machine

/-! ## Memory (spec/20_memory.md) -/

/-- What an unlisted byte holds: its value after a Reset with the default FONT (R42, R51, R52). A Reset with other
font bytes lists those that differ (`State.resetWith`). -/
def Memory.resetByte (a : Nat) : Byte :=
  if Config.fontBase ≤ a then Config.font.getD (a - Config.fontBase) 0x00 else 0x00

/-- The byte at address `a`. -/
def Memory.read : Memory → Nat → Byte
  | [], a => Memory.resetByte a
  | (b, w) :: m, a => if a = b then w else Memory.read m a

/-- `MEM[a] <- v`, keeping the canonical form: rising addresses, no entry equal to its reset byte. -/
def Memory.write : Memory → Nat → Byte → Memory
  | [], a, v => if v = Memory.resetByte a then [] else [(a, v)]
  | (b, w) :: m, a, v =>
    if a < b then
      if v = Memory.resetByte a then (b, w) :: m else (a, v) :: (b, w) :: m
    else if a = b then
      if v = Memory.resetByte a then m else (a, v) :: m
    else (b, w) :: Memory.write m a v

/-- The `n` bytes from address `a` up, lowest address first. -/
def Memory.readBytes (m : Memory) (a : Nat) : Nat → List Byte
  | 0 => []
  | n + 1 => m.read a :: Memory.readBytes m (a + 1) n

/-- The bytes written one after another from address `a` up. -/
def Memory.writeBytes (m : Memory) (a : Nat) : List Byte → Memory
  | [] => m
  | v :: vs => Memory.writeBytes (m.write a v) (a + 1) vs

/-- The canonical form of the cells from address `low` up. -/
def Memory.wfFrom (low : Nat) : Memory → Bool
  | [] => true
  | (a, v) :: m =>
    decide (low ≤ a) && decide (a < Config.memSize) && (v != Memory.resetByte a) && Memory.wfFrom (a + 1) m

/-- The canonical form: addresses below 4096 and strictly rising, no entry equal to its reset byte. -/
def Memory.wf (m : Memory) : Bool := Memory.wfFrom 0 m

/-- The bound check of R56 and R59 for the `length` bytes from `base` up: the lowest address of the range that is
above 4095, if there is one. `base` is never reduced. -/
def rangeFault (base length : Nat) : Option Nat :=
  if length ≥ 1 ∧ base + (length - 1) > 4095 then some (max base 4096) else none

/-! ## Registers -/

/-- `V[r]` (R20). -/
def State.reg (s : State) (r : Nibble) : Byte := s.v[r.toNat]'r.isLt

/-- `V[r] <- b` (R20): no register is hardwired. -/
def State.setReg (s : State) (r : Nibble) (b : Byte) : State := { s with v := s.v.set r.toNat b r.isLt }

/-- `STK[k]` (R30). -/
def State.slot (s : State) (k : Nibble) : Word := s.stk[k.toNat]'k.isLt

/-- `STK[k] <- w`. -/
def State.setSlot (s : State) (k : Nibble) (w : Word) : State := { s with stk := s.stk.set k.toNat w k.isLt }

/-- `KEY[k]` (R35). -/
def State.key (s : State) (k : Nibble) : Bool := s.keys[k.toNat]'k.isLt

/-- `AdvancePC(n)` (R100), modulo 65536. -/
def State.advance (s : State) (n : Word) : State := { s with pc := s.pc + n }

/-- A skip (R110): 4 when the predicate holds, otherwise 2. -/
def State.skipIf (s : State) (predicate : Bool) : State := if predicate then s.advance 4 else s.advance 2

/-! ## Reset -/

/-- The state after Reset (R42, R195) for any value of the parameters FONT and UNMATCHED_POLICY (R7), with RND at draw
number `draws`: `MEM[0x050 + j] = FONT[j]` (R52). A claim for the hardware holds for every value of the three. -/
def State.resetWith (font : Vector Byte 80) (policy : UnmatchedPolicy) (draws : Nat) : State :=
  { State.reset with
    mem := Memory.writeBytes [] Config.fontBase font.toList
    policy := policy
    font := font
    rndDraws := draws }

/-! ## Faults: entry and return (spec/60_exceptions.md) -/

/-- The numeric code of a cause (R170, decision D8 of the spec). -/
def FaultCause.code : FaultCause → Nat
  | .fetchOutOfBounds => 1
  | .outOfBounds => 2
  | .stackOverflow => 3
  | .stackUnderflow => 4
  | .decodeError => 5
  | .keyIndexOutOfRange => 6

/-- `FAULT` as the rules write it (R39, R177): none, or the pair (code, info). -/
def State.faultPair (s : State) : Option (Nat × Nat) := s.fault.map fun f => (f.cause.code, f.info)

/-- Taking a fault (R176, R177): the latch is set and nothing else changes; control goes nowhere. -/
def takeFault (cause : FaultCause) (info : Nat) (s : State) : State := { s with fault := some ⟨cause, info⟩ }

/-- `ClearFault` (R178), the only return from a fault besides Reset: the latch is cleared and nothing else changes. -/
def clearFault (s : State) : State := { s with fault := none }

/-- The end of a cycle (R201): what the rule did is kept, or on a `raise` discarded and the fault taken on the state
as it was. -/
def settle (s : State) : Attempt → Result
  | .done t => .next t
  | .raised cause info => .next (takeFault cause info s)
  | .stuck reason => .fault reason

/-! ## Fetch -/

/-- The instruction fetch `MemRead(pc, 2)` (R54, R25): big-endian, at any parity; none where pc + 1 is above 4095. -/
def State.fetch (s : State) : Option Word :=
  if s.pc.toNat + 1 > 4095 then none
  else some (wordOfBytes (s.mem.read s.pc.toNat) (s.mem.read (s.pc.toNat + 1)))

/-- A word stored at address `a` as the fetch reads it (R54). -/
def Memory.writeWord (m : Memory) (a : Nat) (w : Word) : Memory := m.writeBytes a [highByte w, lowByte w]

/-! ## The stack (spec/40_flow_stack.md section 1) -/

/-- `Call(t)` (R101): increment before store, `pc` as it was before the call. -/
def callTo (target : Word) (s : State) : Attempt :=
  if s.sp.toNat ≥ 15 then .raised .stackOverflow s.pc.toNat
  else .done { (s.setSlot ((s.sp + 1).setWidth 4) s.pc) with sp := s.sp + 1, pc := target }

/-- `Return()` (R102): load before decrement; the slot keeps its value (R32). A state with SP above 15 does not exist
in the spec, and the model stops there (log entry 2). -/
def returnFrom (s : State) : Attempt :=
  if s.sp.toNat = 0 then .raised .stackUnderflow s.pc.toNat
  else if s.sp.toNat > 15 then .stuck (.stackSlotAbsent s.sp.toNat)
  else .done { s with pc := s.slot (s.sp.setWidth 4), sp := s.sp - 1 }

/-- A rule that goes on after a primitive, unless the primitive raised or stopped (R10: a `raise` ends the rule). -/
def Attempt.andThen (a : Attempt) (f : State → State) : Attempt :=
  match a with
  | .done t => .done (f t)
  | .raised cause info => .raised cause info
  | .stuck reason => .stuck reason

/-! ## Timers -/

/-- One timer under a Tick (R167): down by one, never below zero. -/
def countDown (t : Byte) : Byte := if t.toNat > 0 then t - 1 else t

/-- The Tick event (R167). It does not look at the latch. -/
def tick (s : State) : State := { s with dt := countDown s.dt, st := countDown s.st }

end Sys2Proof.Machine
end

