-- ==== Sys2Proof/Machine/Operands.lean ====
section
/-! DEFINITION. Operands as the instruction rules use them (spec/30_encoding.md R79, 44_index_memory.md R146,
46_keypad_timer.md R166): zero extension, effective addresses through I, transfers of registers and bytes, the key a
register names, the random byte. -/

namespace Sys2Proof.Machine

/-- `zext_16` of the field nnn (R79). -/
def zextAddr (nnn : Addr12) : Word := nnn.setWidth 16

/-- `zext_16` of a register value (R79). -/
def zextByte (b : Byte) : Word := b.setWidth 16

/-- The number of VF (R21). -/
def vf : Nibble := 0xF

/-- The effective address of byte `k` of a transfer: `I + k`, not reduced (R146, R56). -/
def State.effective (s : State) (k : Nat) : Nat := s.i.toNat + k

/-- The check of a transfer of `length` bytes at I (R59): the fault's `info` when some byte is out of bounds. -/
def State.transferFault (s : State) (length : Nat) : Option Nat := rangeFault (s.effective 0) length

/-- V[0] to V[x], the registers of Fx55 (R144). -/
def State.regsUpTo (s : State) (x : Nibble) : List Byte := s.v.toList.take (x.toNat + 1)

/-- The register file after Fx65 (R145): V[0] to V[x] from the bytes at I, the others as they were. -/
def State.regsFromMemory (s : State) (x : Nibble) : Vector Byte 16 :=
  Vector.ofFn fun k : Fin 16 => if k.val ≤ x.toNat then s.mem.read (s.effective k.val) else s.v[k]

/-- The registers V[0] to V[x] loaded from the bytes at I (R145). -/
def State.loadAtI (s : State) (x : Nibble) : State := { s with v := s.regsFromMemory x }

/-- The bytes written at I, lowest address first (R143, R144). -/
def State.storeAtI (s : State) (bytes : List Byte) : State :=
  { s with mem := s.mem.writeBytes (s.effective 0) bytes }

/-- The three decimal digits of a byte (R143): hundreds, tens, ones. -/
def bcdDigits (b : Byte) : List Byte :=
  [BitVec.ofNat 8 (b.toNat / 100), BitVec.ofNat 8 (b.toNat / 10 % 10), BitVec.ofNat 8 (b.toNat % 10)]

/-- The least key that is pressed (R162), by scanning 0 to 15 upward. -/
def State.firstPressed (s : State) : Option Nibble :=
  ((List.range 16).map (BitVec.ofNat 4)).find? s.key

/-- The draw of one random byte (R132): a free value, and the state in which the next draw is another one. DESIGN
CHOICE: the byte is a function of the draw number, so two runs from states with one draw number draw the same bytes,
which the spec says not to assume (91_not_in_source.md N20); unsafe for a claim that compares two runs (log entry 6). -/
def State.drawRandom (s : State) : Byte × State :=
  (Config.rnd s.rndDraws, { s with rndDraws := s.rndDraws + 1 })

end Sys2Proof.Machine
end

