-- ==== Sys2Proof/Machine/IndexMemory.lean ====
section
/-! DEFINITION. The address register and the transfers through it (spec/44_index_memory.md). No transfer changes I
(R146), and the whole range is checked before anything is written (R59). -/

namespace Sys2Proof.Machine

/-- A transfer of `length` bytes at I: OutOfBounds when one of them is above 4095, otherwise what the rule does (R59). -/
def State.checkedTransfer (s : State) (length : Nat) (done : State) : Attempt :=
  match s.transferFault length with
  | some info => .raised .outOfBounds info
  | none => .done done

/-- Annn (R140). -/
def execLdINnn (nnn : Addr12) (s : State) : Result :=
  settle s (.done ({ s with i := zextAddr nnn }.advance 2))

/-- Fx1E (R141): modulo 65536, no flag. -/
def execAddIVx (x : Nibble) (s : State) : Result :=
  settle s (.done ({ s with i := s.i + zextByte (s.reg x) }.advance 2))

/-- Fx29 (R142): the whole of V[x], not its low nibble. -/
def execLdFVx (x : Nibble) (s : State) : Result :=
  settle s (.done ({ s with i := BitVec.ofNat 16 (Config.fontBase + 5 * (s.reg x).toNat) }.advance 2))

/-- Fx33 (R143). -/
def execLdBVx (x : Nibble) (s : State) : Result :=
  settle s (s.checkedTransfer 3 ((s.storeAtI (bcdDigits (s.reg x))).advance 2))

/-- Fx55 (R144). -/
def execLdMemIVx (x : Nibble) (s : State) : Result :=
  settle s (s.checkedTransfer (x.toNat + 1) ((s.storeAtI (s.regsUpTo x)).advance 2))

/-- Fx65 (R145). -/
def execLdVxMemI (x : Nibble) (s : State) : Result :=
  settle s (s.checkedTransfer (x.toNat + 1) ((s.loadAtI x).advance 2))

end Sys2Proof.Machine
end

