-- ==== Sys2Proof/Machine/Display.lean ====
section
/-! DEFINITION. The framebuffer compositor and the collision detector (spec/45_display.md): CLS and DRW. -/

namespace Sys2Proof.Machine

/-- `FB[y][x]` (R37). -/
def pixel (fb : Framebuffer) (x : Fin 64) (y : Fin 32) : Bool := fb[y].getLsbD x.val

/-- `FB[y][x] <- FB[y][x] ^ 1` (R151). -/
def invertPixel (fb : Framebuffer) (x : Fin 64) (y : Fin 32) : Framebuffer :=
  fb.set y.val (fb[y] ^^^ (1#64 <<< x.val)) y.isLt

/-- A column number reduced modulo 64 (R154). -/
def columnOf (k : Nat) : Fin 64 := ⟨k % 64, Nat.mod_lt k (by decide)⟩

/-- A row number reduced modulo 32 (R154). -/
def rowOf (k : Nat) : Fin 32 := ⟨k % 32, Nat.mod_lt k (by decide)⟩

/-- A framebuffer under composition, and whether a pixel has gone from lit to off so far in this draw (R155). -/
structure Canvas where
  fb : Framebuffer
  collision : Bool
deriving DecidableEq, Repr

/-- One sprite bit on one pixel (R151, R155): a 0 leaves it alone, a 1 inverts it. -/
def Canvas.plot (c : Canvas) (bit : Bool) (x : Fin 64) (y : Fin 32) : Canvas :=
  if bit then ⟨invertPixel c.fb x y, c.collision || pixel c.fb x y⟩ else c

/-- `n` columns of one sprite row, from column `col` on: column c is bit 7 - c of the row byte (R153) and lies at
`(ox + c) mod 64` (R154). -/
def Canvas.plotColumns (row : Byte) (ox : Nat) (y : Fin 32) (c : Canvas) (col : Nat) : Nat → Canvas
  | 0 => c
  | n + 1 =>
    Canvas.plotColumns row ox y (c.plot (row.getLsbD (7 - col)) (columnOf (ox + col)) y) (col + 1) n

/-- The rows of a sprite, the first at `oy mod 32` and each next one row lower, modulo 32 (R151, R154). -/
def Canvas.plotRows (ox : Nat) (c : Canvas) (oy : Nat) : List Byte → Canvas
  | [] => c
  | row :: rows => Canvas.plotRows ox (Canvas.plotColumns row ox (rowOf oy) c 0 8) (oy + 1) rows

/-- `Draw(originX, originY, spriteBytes)` (R151, R152): the origin is reduced first. -/
def drawSprite (fb : Framebuffer) (originX originY : Nat) (rows : List Byte) : Canvas :=
  Canvas.plotRows (originX % 64) ⟨fb, false⟩ (originY % 32) rows

/-- The framebuffer replaced as a whole. -/
def State.setScreen (s : State) (fb : Framebuffer) : State := { s with fb := fb }

/-- 00E0 (R150). -/
def execCls (s : State) : Result := settle s (.done ((s.setScreen (Vector.replicate 32 0)).advance 2))

/-- The sprite of a DRW: `n` bytes from I up (R152). -/
def State.spriteAtI (s : State) (n : Nibble) : List Byte := s.mem.readBytes (s.effective 0) n.toNat

/-- The composition a DRW makes: coordinates and sprite are read before anything is written (R152). -/
def State.drawing (s : State) (x y n : Nibble) : Canvas :=
  drawSprite s.fb (s.reg x).toNat (s.reg y).toNat (s.spriteAtI n)

/-- Dxyn (R152): the pixels, then VF, then the advance. -/
def execDrw (x y n : Nibble) (s : State) : Result :=
  settle s (s.checkedTransfer n.toNat
    (((s.setScreen (s.drawing x y n).fb).setReg vf (flag (s.drawing x y n).collision)).advance 2))

end Sys2Proof.Machine
end

