-- ==== Sys2Proof/Machine/FlowStack.lean ====
section
/-! DEFINITION. Control transfer and the stack (spec/40_flow_stack.md section 2): RET, JP, CALL, JP V0. -/

namespace Sys2Proof.Machine

/-- 00EE (R103): `Return()`, then the normal advance on the restored pc. -/
def execRet (s : State) : Result := settle s ((returnFrom s).andThen fun t => t.advance 2)

/-- 1nnn (R104). -/
def execJp (nnn : Addr12) (s : State) : Result := settle s (.done { s with pc := zextAddr nnn })

/-- 2nnn (R105): the saved pc is the address of this instruction. -/
def execCall (nnn : Addr12) (s : State) : Result := settle s (callTo (zextAddr nnn) s)

/-- Bnnn (R106): always V0, and no reduction to 12 bits. -/
def execJpV0 (nnn : Addr12) (s : State) : Result :=
  settle s (.done { s with pc := zextByte (s.reg 0x0) + zextAddr nnn })

end Sys2Proof.Machine
end

