-- ==== Sys2Proof/Machine/Alu.lean ====
section
/-! DEFINITION. Arithmetic and logic (spec/42_alu.md): the ten forms of R120, and the shape they share with the
shifts. Operands are read before any write; where a form has a flag, VF is written first and V[x] after it (R130). -/

namespace Sys2Proof.Machine

/-- `V[x] <- result; AdvancePC(2)` (R120). -/
def State.putResult (s : State) (x : Nibble) (result : Byte) : State := (s.setReg x result).advance 2

/-- `V[0xF] <- flag; V[x] <- result; AdvancePC(2)`, in this order (R127 to R130, R135, R136). -/
def State.putFlagResult (s : State) (x : Nibble) (flagValue result : Byte) : State :=
  (s.setReg vf flagValue).putResult x result

/-- 6xkk (R121). -/
def execLdVxKk (x : Nibble) (kk : Byte) (s : State) : Result := settle s (.done (s.putResult x kk))

/-- 7xkk (R122): truncated to 8 bits, no flag. -/
def execAddVxKk (x : Nibble) (kk : Byte) (s : State) : Result :=
  settle s (.done (s.putResult x (s.reg x + kk)))

/-- 8xy0 (R123). -/
def execLdVxVy (x y : Nibble) (s : State) : Result := settle s (.done (s.putResult x (s.reg y)))

/-- 8xy1 (R124). -/
def execOrVxVy (x y : Nibble) (s : State) : Result :=
  settle s (.done (s.putResult x (s.reg x ||| s.reg y)))

/-- 8xy2 (R125). -/
def execAndVxVy (x y : Nibble) (s : State) : Result :=
  settle s (.done (s.putResult x (s.reg x &&& s.reg y)))

/-- 8xy3 (R126). -/
def execXorVxVy (x y : Nibble) (s : State) : Result :=
  settle s (.done (s.putResult x (s.reg x ^^^ s.reg y)))

/-- 8xy4 (R127). -/
def execAddVxVy (x y : Nibble) (s : State) : Result :=
  settle s (.done (s.putFlagResult x (carryFlag (s.reg x) (s.reg y)) (s.reg x + s.reg y)))

/-- 8xy5 (R128): the flag is strict, equal operands give 0. -/
def execSubVxVy (x y : Nibble) (s : State) : Result :=
  settle s (.done (s.putFlagResult x (greaterFlag (s.reg x) (s.reg y)) (s.reg x - s.reg y)))

/-- 8xy7 (R129). -/
def execSubnVxVy (x y : Nibble) (s : State) : Result :=
  settle s (.done (s.putFlagResult x (greaterFlag (s.reg y) (s.reg x)) (s.reg y - s.reg x)))

/-- Cxkk (R132): the draw is a free byte, a new one at each execution. -/
def execRndVxKk (x : Nibble) (kk : Byte) (s : State) : Result :=
  settle s (.done (s.drawRandom.2.putResult x (s.drawRandom.1 &&& kk)))

end Sys2Proof.Machine
end

