-- ==== Sys2Proof/Machine/KeypadTimer.lean ====
section
/-! DEFINITION. Keypad and timer instructions (spec/46_keypad_timer.md). -/

namespace Sys2Proof.Machine

/-- A key test (R166, R160, R161): KeyIndexOutOfRange when V[x] is above 15, otherwise a skip on the key's level. -/
def State.keySkip (s : State) (x : Nibble) (wanted : Bool) : Attempt :=
  if (s.reg x).toNat > 15 then .raised .keyIndexOutOfRange (s.reg x).toNat
  else .done (s.skipIf (s.key ((s.reg x).setWidth 4) == wanted))

/-- Ex9E (R160). -/
def execSkp (x : Nibble) (s : State) : Result := settle s (s.keySkip x true)

/-- ExA1 (R161). -/
def execSknp (x : Nibble) (s : State) : Result := settle s (s.keySkip x false)

/-- Fx0A (R162): the least pressed key, or no change at all while none is pressed. -/
def execLdVxK (x : Nibble) (s : State) : Result :=
  match s.firstPressed with
  | some k => settle s (.done (s.putResult x (k.setWidth 8)))
  | none => settle s (.done s)

/-- Fx07 (R163). -/
def execLdVxDt (x : Nibble) (s : State) : Result := settle s (.done (s.putResult x s.dt))

/-- Fx15 (R164). -/
def execLdDtVx (x : Nibble) (s : State) : Result := settle s (.done ({ s with dt := s.reg x }.advance 2))

/-- Fx18 (R165). -/
def execLdStVx (x : Nibble) (s : State) : Result := settle s (.done ({ s with st := s.reg x }.advance 2))

end Sys2Proof.Machine
end

