-- ==== Sys2Proof/Machine/Shift.lean ====
section
/-! DEFINITION. The shifts by one (spec/43_shift.md): SHR and SHL, of V[x] in place; y is not used (R137). -/

namespace Sys2Proof.Machine

/-- 8xy6 (R135): logical, bit 7 of the result is 0. -/
def execShrVx (x : Nibble) (s : State) : Result :=
  settle s (.done (s.putFlagResult x (lowBitFlag (s.reg x)) (s.reg x >>> 1)))

/-- 8xyE (R136): bit 0 of the result is 0. -/
def execShlVx (x : Nibble) (s : State) : Result :=
  settle s (.done (s.putFlagResult x (highBitFlag (s.reg x)) (s.reg x <<< 1)))

end Sys2Proof.Machine
end

