-- ==== Sys2Proof/Machine/Skip.lean ====
section
/-! DEFINITION. The skips that compare registers (spec/41_skip.md): SE and SNE. -/

namespace Sys2Proof.Machine

/-- 3xkk (R111). -/
def execSeVxKk (x : Nibble) (kk : Byte) (s : State) : Result :=
  settle s (.done (s.skipIf (s.reg x == kk)))

/-- 4xkk (R112). -/
def execSneVxKk (x : Nibble) (kk : Byte) (s : State) : Result :=
  settle s (.done (s.skipIf (s.reg x != kk)))

/-- 5xy0 (R113). -/
def execSeVxVy (x y : Nibble) (s : State) : Result :=
  settle s (.done (s.skipIf (s.reg x == s.reg y)))

/-- 9xy0 (R114). -/
def execSneVxVy (x y : Nibble) (s : State) : Result :=
  settle s (.done (s.skipIf (s.reg x != s.reg y)))

end Sys2Proof.Machine
end

