-- ==== Sys2Proof/Machine/Unmatched.lean ====
section
/-! DEFINITION. A word that matches none of the 34 forms (spec/30_encoding.md R90), under both values of the parameter
UNMATCHED_POLICY. -/

namespace Sys2Proof.Machine

/-- R90: under `nop` the advance and nothing else; under `fault` DecodeError with the word (R175). -/
def execUnmatched (w : Word) (s : State) : Result :=
  match s.policy with
  | .nop => settle s (.done (s.advance 2))
  | .fault => settle s (.raised .decodeError w.toNat)

end Sys2Proof.Machine
end

