-- ==== Sys2Proof/Machine/Cycle.lean ====
section
/-! DEFINITION. The Cycle event (spec/70_reset_and_hazards.md R201): fetch, decode, execute. -/

namespace Sys2Proof.Machine

/-- The Cycle event (R201): nothing while the latch is set (R177); the fetch, which can fault (R25); then the rule of
the form, or R90. No advance stands outside the rules (R203). -/
def cycle (s : State) : Result :=
  match s.fault with
  | some _ => .next s
  | none =>
    match s.fetch with
    | none => settle s (.raised .fetchOutOfBounds s.pc.toNat)
    | some w =>
      match decodeWord w with
      | .instr i => exec i s
      | .unmatched w' => execUnmatched w' s

end Sys2Proof.Machine
end

