-- ==== Sys2Proof/Machine/Step.lean ====
section
/-! DEFINITION. The step, and how an instruction is placed where the next step fetches. -/

namespace Sys2Proof.Machine

/-- A step is one Cycle event; Ticks and the host's operations are events of their own (log entry 4). -/
def step (s : State) : Host.Outcome State Fault Refusal := cycle s

/-- The state whose very next step runs the instruction with the bits `w` of spec/opcode_table.json: the word stands
at pc. What a fetch needs besides is made so: the latch is clear, and a pc from which no fetch is possible becomes the
reset pc. It stands for the host's Load (log entry 11). -/
def State.withFetchWord (s : State) (nbits w : Nat) : State :=
  let pc := if s.pc.toNat + 1 > 4095 then Config.resetPc else s.pc
  { s with pc := pc, fault := none, mem := s.mem.writeWord pc.toNat (tableWord nbits w) }

end Sys2Proof.Machine
end

