-- ==== Sys2Proof/Machine/Assembly.lean ====
section
/-! DEFINITION. The listing syntax of spec/30_encoding.md R95, as mnemonics and operand tokens: which instruction a line
names, and which bytes a listing stands for. The mnemonics come from general knowledge (decision D20 of the spec); the
word is the authority. -/

namespace Sys2Proof.Machine

/-- The mnemonics of R84's sixth column, operands left out. -/
inductive Mnemonic where
  | cls | ret | jp | call | se | sne | ld | add | or | and | xor | sub | shr | subn | shl | rnd | drw | skp | sknp
deriving DecidableEq, Repr

/-- The operands of R95: registers, numbers, and the literal operand names that select a form. -/
inductive Operand where
  | v (r : Nibble)   -- V0 to VF
  | num (n : Nat)    -- 0x.., a value of kk, nnn or n
  | i | dt | st | k | f | b
  | memI             -- [I]
deriving DecidableEq, Repr

/-- A line of a listing: an instruction, or a data byte `.byte 0x..` (R95). -/
inductive Line where
  | instr (m : Mnemonic) (operands : List Operand)
  | byte (n : Nat)
deriving DecidableEq, Repr

/-- A number in a field of `width` bits: none where it does not fit (R79). -/
def fitField (width n : Nat) : Option (BitVec width) :=
  if n < 2 ^ width then some (BitVec.ofNat width n) else none

/-- The instruction a line names (R84, R95): shared mnemonics are told apart by their operands. SHR and SHL take one
operand, and the unused y is 0 unless a second one is written. -/
def assemble : Mnemonic → List Operand → Option Instr
  | .cls, [] => some .cls
  | .ret, [] => some .ret
  | .jp, [.num n] => (fitField 12 n).map .jp
  | .jp, [.v r, .num n] => if r = 0x0 then (fitField 12 n).map .jpV0 else none
  | .call, [.num n] => (fitField 12 n).map .call
  | .se, [.v x, .num n] => (fitField 8 n).map (.seVxKk x)
  | .se, [.v x, .v y] => some (.seVxVy x y)
  | .sne, [.v x, .num n] => (fitField 8 n).map (.sneVxKk x)
  | .sne, [.v x, .v y] => some (.sneVxVy x y)
  | .ld, [.v x, .num n] => (fitField 8 n).map (.ldVxKk x)
  | .ld, [.v x, .v y] => some (.ldVxVy x y)
  | .ld, [.v x, .dt] => some (.ldVxDt x)
  | .ld, [.v x, .k] => some (.ldVxK x)
  | .ld, [.v x, .memI] => some (.ldVxMemI x)
  | .ld, [.i, .num n] => (fitField 12 n).map .ldINnn
  | .ld, [.dt, .v x] => some (.ldDtVx x)
  | .ld, [.st, .v x] => some (.ldStVx x)
  | .ld, [.f, .v x] => some (.ldFVx x)
  | .ld, [.b, .v x] => some (.ldBVx x)
  | .ld, [.memI, .v x] => some (.ldMemIVx x)
  | .add, [.v x, .num n] => (fitField 8 n).map (.addVxKk x)
  | .add, [.v x, .v y] => some (.addVxVy x y)
  | .add, [.i, .v x] => some (.addIVx x)
  | .or, [.v x, .v y] => some (.orVxVy x y)
  | .and, [.v x, .v y] => some (.andVxVy x y)
  | .xor, [.v x, .v y] => some (.xorVxVy x y)
  | .sub, [.v x, .v y] => some (.subVxVy x y)
  | .subn, [.v x, .v y] => some (.subnVxVy x y)
  | .shr, [.v x] => some (.shrVx x 0x0)
  | .shr, [.v x, .v y] => some (.shrVx x y)
  | .shl, [.v x] => some (.shlVx x 0x0)
  | .shl, [.v x, .v y] => some (.shlVx x y)
  | .rnd, [.v x, .num n] => (fitField 8 n).map (.rndVxKk x)
  | .drw, [.v x, .v y, .num n] => (fitField 4 n).map (.drw x y)
  | .skp, [.v x] => some (.skp x)
  | .sknp, [.v x] => some (.sknp x)
  | _, _ => none

/-- The line that names an instruction (R84, R95). -/
def disassemble : Instr → Mnemonic × List Operand
  | .cls => (.cls, [])
  | .ret => (.ret, [])
  | .jp nnn => (.jp, [.num nnn.toNat])
  | .call nnn => (.call, [.num nnn.toNat])
  | .seVxKk x kk => (.se, [.v x, .num kk.toNat])
  | .sneVxKk x kk => (.sne, [.v x, .num kk.toNat])
  | .seVxVy x y => (.se, [.v x, .v y])
  | .ldVxKk x kk => (.ld, [.v x, .num kk.toNat])
  | .addVxKk x kk => (.add, [.v x, .num kk.toNat])
  | .ldVxVy x y => (.ld, [.v x, .v y])
  | .orVxVy x y => (.or, [.v x, .v y])
  | .andVxVy x y => (.and, [.v x, .v y])
  | .xorVxVy x y => (.xor, [.v x, .v y])
  | .addVxVy x y => (.add, [.v x, .v y])
  | .subVxVy x y => (.sub, [.v x, .v y])
  | .shrVx x y => (.shr, if y = 0x0 then [.v x] else [.v x, .v y])
  | .subnVxVy x y => (.subn, [.v x, .v y])
  | .shlVx x y => (.shl, if y = 0x0 then [.v x] else [.v x, .v y])
  | .sneVxVy x y => (.sne, [.v x, .v y])
  | .ldINnn nnn => (.ld, [.i, .num nnn.toNat])
  | .jpV0 nnn => (.jp, [.v 0x0, .num nnn.toNat])
  | .rndVxKk x kk => (.rnd, [.v x, .num kk.toNat])
  | .drw x y n => (.drw, [.v x, .v y, .num n.toNat])
  | .skp x => (.skp, [.v x])
  | .sknp x => (.sknp, [.v x])
  | .ldVxDt x => (.ld, [.v x, .dt])
  | .ldVxK x => (.ld, [.v x, .k])
  | .ldDtVx x => (.ld, [.dt, .v x])
  | .ldStVx x => (.ld, [.st, .v x])
  | .addIVx x => (.add, [.i, .v x])
  | .ldFVx x => (.ld, [.f, .v x])
  | .ldBVx x => (.ld, [.b, .v x])
  | .ldMemIVx x => (.ld, [.memI, .v x])
  | .ldVxMemI x => (.ld, [.v x, .memI])

/-- The bytes of one line, lower address first (R95, R96). -/
def assembleLine : Line → Option (List Byte)
  | .instr m operands => (assemble m operands).map encodeBytes
  | .byte n => (fitField 8 n).map fun b => [b]

/-- The bytes of a listing, in order; none where a line names no instruction. -/
def assembleListing : List Line → Option (List Byte)
  | [] => some []
  | line :: rest => do
    let bytes ← assembleLine line
    let more ← assembleListing rest
    pure (bytes ++ more)

end Sys2Proof.Machine
end

