-- ==== Sys2Proof/Machine/Events.lean ====
section
/-! DEFINITION. Everything that happens to the core (spec/70_reset_and_hazards.md R200): the Cycle and Tick of the
driver, the key-event layer, and the host. An operation the spec refuses (R182) answers `refused` and changes nothing. -/

namespace Sys2Proof.Machine

/-- The events of R200. A host read changes nothing and is one event, `hostRead`; what it returns is a field of the
state, `faultPair`, `snapshot` or `hostReadByte`. -/
inductive Event where
  | reset
  | load (bytes : List Byte)
  | cycle
  | tick
  | setPressed (k : Nibble) (pressed : Bool)
  | writeV (r : Nibble) (b : Byte)
  | writeI (w : Word)
  | writePc (w : Word)
  | writeSp (b : Byte)
  | writeStk (k : Nibble) (w : Word)
  | writeDt (b : Byte)
  | writeSt (b : Byte)
  | writeByte (address : Nat) (b : Byte)
  | hostRead
  | clearFault
deriving DecidableEq, Repr

/-- The Reset event (R195). The keys belong to the key-event layer (R42), the policy and the font are parameters, and the
count of random draws goes on, so that a draw after a Reset is a new one (log entries 3, 5, 6, 7). -/
def resetEvent (s : State) : State := { State.resetWith s.font s.policy s.rndDraws with keys := s.keys }

/-- Load (R68): from 0x200 upward, refused as a whole when it does not fit; an empty Load changes nothing (R69). -/
def loadProgram (bytes : List Byte) (s : State) : Result :=
  if bytes.length > Config.memSize - Config.progBase then .refused (.loadTooLong bytes.length)
  else .next { s with mem := s.mem.writeBytes Config.progBase bytes }

/-- `SetPressed(k, b)` (R200, R35). -/
def setPressed (k : Nibble) (pressed : Bool) (s : State) : State :=
  { s with keys := s.keys.set k.toNat pressed k.isLt }

/-- The host's write of SP (R43): 0 to 15 only. -/
def hostWriteSp (b : Byte) (s : State) : Result :=
  if b.toNat > 15 then .refused (.hostStackPointerOutOfRange b.toNat) else .next { s with sp := b }

/-- `writeByte(addr, v)` by the host (R70). -/
def hostWriteByte (address : Nat) (b : Byte) (s : State) : Result :=
  if address > 4095 then .refused (.hostAddressOutOfBounds address)
  else .next { s with mem := s.mem.write address b }

/-- `readByte(addr)` by the host (R70). -/
def hostReadByte (address : Nat) (s : State) : Host.Outcome Byte Fault Refusal :=
  if address > 4095 then .refused (.hostAddressOutOfBounds address) else .next (s.mem.read address)

/-- The framebuffer snapshot (R205): row y, column x of the answer is `FB[y][x]`. -/
def snapshot (s : State) : List (List Bool) :=
  (List.finRange 32).map fun y => (List.finRange 64).map fun x => pixel s.fb x y

/-- One event (R200, R202). -/
def event (e : Event) (s : State) : Result :=
  match e with
  | .reset => .next (resetEvent s)
  | .load bytes => loadProgram bytes s
  | .cycle => step s
  | .tick => .next (tick s)
  | .setPressed k pressed => .next (setPressed k pressed s)
  | .writeV r b => .next (s.setReg r b)
  | .writeI w => .next { s with i := w }
  | .writePc w => .next { s with pc := w }
  | .writeSp b => hostWriteSp b s
  | .writeStk k w => .next (s.setSlot k w)
  | .writeDt b => .next { s with dt := b }
  | .writeSt b => .next { s with st := b }
  | .writeByte address b => hostWriteByte address b s
  | .hostRead => .next s
  | .clearFault => .next (clearFault s)

/-- The state after an event: a refused operation changes nothing (R182). -/
def afterEvent (s : State) (e : Event) : State :=
  match event e s with
  | .next t => t
  | .fault _ => s
  | .refused _ => s

/-- The state after a sequence of events, first event first (R202). -/
def afterEvents (s : State) (es : List Event) : State := es.foldl afterEvent s

/-- The reference driver's round (R168): one Cycle, then one Tick, also after a waiting Fx0A or an unmatched word. Whether
a Tick follows a cycle that faulted, or one that the latch froze, the spec does not state (R168, 91_not_in_source.md
N14). DESIGN CHOICE: the model leaves it to the argument `tickAfterFault`, so that a claim can hold for both (log
entry 13). -/
def cycleThenTick (tickAfterFault : Bool) (s : State) : State :=
  let t := afterEvent s .cycle
  if t.fault.isSome && !tickAfterFault then t else afterEvent t .tick

end Sys2Proof.Machine
end

