-- ==== Sys2Proof/Safety.lean ====
section
/-! DEFINITION. The terms in which claims are made: what a good state is, what an instruction may change, which words a
form owns, which pixels a sprite covers, when a program is parked. -/

namespace Sys2Proof.Machine

/-! ## States -/

/-- A run is safe so far while the latch is clear (spec/60_exceptions.md R183). -/
def State.safe (s : State) : Bool := s.fault.isNone

/-- The latch holds what R170 allows for its cause. -/
def State.latchLegal (s : State) : Bool :=
  match s.fault with
  | none => true
  | some ⟨.fetchOutOfBounds, info⟩ => decide (0xFFE < info ∧ info ≤ 0xFFFF)
  | some ⟨.outOfBounds, info⟩ => decide (4096 ≤ info ∧ info ≤ 0xFFFF)
  | some ⟨.stackOverflow, info⟩ => decide (info ≤ 0xFFE)
  | some ⟨.stackUnderflow, info⟩ => decide (info ≤ 0xFFE)
  | some ⟨.decodeError, info⟩ =>
    s.policy == .fault && decide (info ≤ 0xFFFF) &&
      decodeWord (BitVec.ofNat 16 info) == .unmatched (BitVec.ofNat 16 info)
  | some ⟨.keyIndexOutOfRange, info⟩ => decide (15 < info ∧ info ≤ 255)

/-- The invariant of the machine: memory in its canonical form and inside 0 to 4095 (R50), SP at most 15 (R28), the
latch as R170 lists it. -/
abbrev State.Inv (s : State) : Prop :=
  s.mem.wf = true ∧ s.sp.toNat ≤ 15 ∧ s.latchLegal = true

/-- The bound on pc that holds while no host writes pc or the stack: at most 0x10FE, the largest sum of Bnnn (R24),
and every slot holds an address from which an instruction was fetched (R25, R105). -/
abbrev State.PcBounded (s : State) : Prop :=
  s.pc.toNat ≤ 0x10FE ∧ ∀ k : Nibble, (s.slot k).toNat ≤ 0xFFE

/-- A parked state (R213): no fault, and the word at pc is a jump to itself. -/
def State.parked (s : State) : Prop :=
  s.fault = none ∧ ∃ nnn : Addr12, s.fetch = some (encode (.jp nnn)) ∧ nnn.toNat = s.pc.toNat

/-! ## Frames -/

/-- What an instruction may change besides pc; everything not named must stay. -/
structure MayChange where
  regs : List Nibble := []
  i : Bool := false
  sp : Bool := false
  slots : List Nibble := []
  dt : Bool := false
  st : Bool := false
  screen : Bool := false
  draws : Bool := false
  /-- The first address stored to. -/
  storeAt : Nat := 0
  /-- How many bytes are stored, from `storeAt` up. -/
  stored : Nat := 0

/-- Everything but pc and what `c` names is the same in `t` as in `s`: registers, I, SP, every stack slot, the timers,
every pixel, every byte of memory outside the stored ones, the latch, the keys and the parameters. -/
def Frame (c : MayChange) (s t : State) : Prop :=
  (∀ r, r ∉ c.regs → t.reg r = s.reg r) ∧
  (c.i = false → t.i = s.i) ∧
  (c.sp = false → t.sp = s.sp) ∧
  (∀ k, k ∉ c.slots → t.slot k = s.slot k) ∧
  (c.dt = false → t.dt = s.dt) ∧
  (c.st = false → t.st = s.st) ∧
  (c.screen = false → ∀ x y, pixel t.fb x y = pixel s.fb x y) ∧
  (∀ a, (a < c.storeAt ∨ c.storeAt + c.stored ≤ a) → t.mem.read a = s.mem.read a) ∧
  t.fault = s.fault ∧ t.keys = s.keys ∧ t.policy = s.policy ∧ t.font = s.font ∧
  (c.draws = false → t.rndDraws = s.rndDraws)

/-! ## Encodings and sprites -/

/-- The form with this match and mask (R80, R84) is decoded exactly from the words that match it, its operands taken
from the word as `mk` says. -/
def EncodedAs (value mask : Word) (mk : Word → Instr) : Prop :=
  ∀ w : Word, w &&& mask = value ↔ decodeWord w = .instr (mk w)

/-- Whether a sprite drawn at (originX, originY) has a set bit on pixel (x, y): the pixel lies `c` columns right of the
origin modulo 64 and `r` rows below it modulo 32, and bit 7 - c of row r is 1 (R151, R153, R154). -/
def spriteCovers (originX originY : Nat) (rows : List Byte) (x : Fin 64) (y : Fin 32) : Bool :=
  let c := (x.val + 64 - originX % 64) % 64
  let r := (y.val + 32 - originY % 32) % 32
  decide (c < 8) && decide (r < rows.length) && (rows.getD r 0x00).getLsbD (7 - c)

end Sys2Proof.Machine
end

