-- ==== Sys2Proof/Certificates/Slice0/Obligations.lean ====
section
/-! DEFINITION. The statements about the machine, for the provers. A docstring names the rule of spec/ a statement
formalises, or, for a statement that rests on a decision or inference of the spec (or of the model), where that stands.
Throughout, `s.pc + 2` and `s.pc + 4` are AdvancePC of R100: its reduction modulo 65536 is decision D14 of the spec and
acts only from pc 0xFFFC up, where no cycle executes. -/

open Sys2Proof Sys2Proof.Machine

/-! ## Encoding -/

/-- Decoding the word, or the bytes, of an instruction gives it back with every operand (30_encoding.md R77, R84, R96;
an inference the spec marks as derived). -/
def Obligations.DecodeOfEncodeIsIdentity : Prop :=
  ∀ (i : Instr) (rest : List Byte),
    decodeWord (encode i) = .instr i ∧ decodeStream (encodeBytes i ++ rest) = some (.instr i, rest)

/-- Every word the decoder accepts is the encoding of what it answers: each word has one meaning (R82, R96). -/
def Obligations.EncodeOfDecodeIsIdentity : Prop :=
  ∀ (w : Word) (i : Instr), decodeWord w = .instr i → encode i = w

/-- The decoder agrees with the match and mask table of R84: a row's test holds of a word exactly when the decoder
answers that row's form (R80). -/
def Obligations.DecoderAgreesWithTable : Prop :=
  ∀ (w : Word) (r : OpcodeRow), r ∈ opcodeTable →
    (r.covers w = true ↔ ∃ i, decodeWord w = .instr i ∧ i.form = r.form)

/-- No word matches two rows of the table (R81, derived by the spec). -/
def Obligations.PatternsArePairwiseDisjoint : Prop :=
  ∀ (w : Word) (r q : OpcodeRow), r ∈ opcodeTable → q ∈ opcodeTable →
    r.covers w = true → q.covers w = true → r = q

/-- The words the decoder rejects are exactly the six groups listed in R91 (derived by the spec), and it rejects a word
under its own name. -/
def Obligations.UnmatchedWordsAreTheListedOnes : Prop :=
  ∀ w : Word, decodeWord w = .unmatched w ↔
    (fieldOp w = 0x0 ∧ w ≠ 0x00E0 ∧ w ≠ 0x00EE) ∨
    (fieldOp w = 0x5 ∧ fieldN w ≠ 0x0) ∨
    (fieldOp w = 0x8 ∧ fieldN w ∈ [0x8, 0x9, 0xA, 0xB, 0xC, 0xD, 0xF]) ∨
    (fieldOp w = 0x9 ∧ fieldN w ≠ 0x0) ∨
    (fieldOp w = 0xE ∧ fieldKk w ∉ [0x9E, 0xA1]) ∨
    (fieldOp w = 0xF ∧ fieldKk w ∉ [0x07, 0x0A, 0x15, 0x18, 0x1E, 0x29, 0x33, 0x55, 0x65])

/-- The three encoding shapes, for any major opcode: each ORs it with the fields, shifted to their places (30_encoding.md
R77, R96). Which shape and opcode `encode` takes for an instruction is not said here. -/
def Obligations.EncodingIsMatchOrShiftedFields : Prop :=
  ∀ (op x y n : Nibble) (kk : Byte) (nnn : Addr12),
    encodeNnn op nnn = (op.setWidth 16 <<< 12) ||| nnn.setWidth 16 ∧
    encodeXkk op x kk = (op.setWidth 16 <<< 12) ||| (x.setWidth 16 <<< 8) ||| kk.setWidth 16 ∧
    encodeXyn op x y n =
      (op.setWidth 16 <<< 12) ||| (x.setWidth 16 <<< 8) ||| (y.setWidth 16 <<< 4) ||| n.setWidth 16

/-- Words written out from the spec decode to what they stand for (R96, V30-13 to V30-16 and one per family). -/
def Obligations.SampleWordsDecode : Prop :=
  decodeWord 0x83A4 = .instr (.addVxVy 0x3 0xA) ∧ decodeWord 0x6B7F = .instr (.ldVxKk 0xB 0x7F) ∧
  decodeWord 0xD015 = .instr (.drw 0x0 0x1 0x5) ∧ decodeWord 0x1234 = .instr (.jp 0x234) ∧
  decodeWord 0x8FFE = .instr (.shlVx 0xF 0xF) ∧ decodeWord 0xEF9E = .instr (.skp 0xF) ∧
  decodeWord 0x4F01 = .instr (.sneVxKk 0xF 0x01) ∧ decodeWord 0xF255 = .instr (.ldMemIVx 0x2) ∧
  decodeWord 0x0000 = .unmatched 0x0000 ∧ decodeWord 0x5121 = .unmatched 0x5121

/-- The listing line of an instruction names that instruction (30_encoding.md R95; the mnemonics are decision D20). -/
def Obligations.AssembleOfDisassembleIsIdentity : Prop :=
  ∀ i : Instr, assemble (disassemble i).1 (disassemble i).2 = some i

/-! ## Reset and invariants -/

/-- The state after reset, for any values of the parameters FONT and UNMATCHED_POLICY (10_state.md R42, 20_memory.md R52;
pc by decision D2, the latch by D6, FONT as a parameter by D15). `State.reset` is the case of the default values (log
entries 3, 6, 7). -/
def Obligations.ResetLeavesTheListedValues : Prop :=
  State.reset = State.resetWith Config.defaultFont .nop State.reset.rndDraws ∧
  ∀ (font : Vector Byte 80) (policy : UnmatchedPolicy) (draws : Nat),
    let s := State.resetWith font policy draws
    (∀ r, s.reg r = 0x00) ∧ s.i = 0x0000 ∧ s.pc = 0x0200 ∧ s.sp = 0 ∧ (∀ k, s.slot k = 0x0000) ∧
    s.dt = 0 ∧ s.st = 0 ∧ (∀ k, s.key k = false) ∧ (∀ x y, pixel s.fb x y = false) ∧
    (∀ a, a < 0x050 ∨ 0x0A0 ≤ a → s.mem.read a = 0x00) ∧
    (∀ j (h : j < 80), s.mem.read (0x050 + j) = font[j]) ∧
    s.fault = none ∧ s.policy = policy ∧ s.font = font ∧ s.rndDraws = draws

/-- The Reset event gives the same values from any state (70_reset_and_hazards.md R195, decisions D2 and D16); the keys,
the parameters and the count of random draws are not the core's to reset (log entries 3, 5, 6, 7). -/
def Obligations.ResetEventErasesEverything : Prop :=
  ∀ s : State, ∃ t, event .reset s = .next t ∧
    (∀ r, t.reg r = 0x00) ∧ t.i = 0x0000 ∧ t.pc = 0x0200 ∧ t.sp = 0 ∧ (∀ k, t.slot k = 0x0000) ∧
    t.dt = 0 ∧ t.st = 0 ∧ (∀ x y, pixel t.fb x y = false) ∧
    (∀ a, a < 0x050 ∨ 0x0A0 ≤ a → t.mem.read a = 0x00) ∧
    (∀ j (h : j < 80), t.mem.read (0x050 + j) = s.font[j]) ∧
    t.fault = none ∧ t.keys = s.keys ∧ t.policy = s.policy ∧ t.font = s.font ∧ t.rndDraws = s.rndDraws

/-- Both invariants hold after reset, whatever the parameters. -/
def Obligations.InvariantsHoldAtReset : Prop :=
  State.reset.Inv ∧ State.reset.PcBounded ∧
  ∀ (font : Vector Byte 80) (policy : UnmatchedPolicy) (draws : Nat),
    (State.resetWith font policy draws).Inv ∧ (State.resetWith font policy draws).PcBounded

/-- Every step keeps the invariant: memory canonical and inside 4096 bytes, SP at most 15, the latch as R170 lists it
(10_state.md R28, R39; 20_memory.md R50). -/
def Obligations.StepKeepsInvariant : Prop :=
  ∀ s t : State, s.Inv → step s = .next t → t.Inv

/-- So does every event of the driver, the keypad and the host (70_reset_and_hazards.md R200, decision D16). -/
def Obligations.EveryEventKeepsInvariant : Prop :=
  ∀ (e : Event) (s t : State), s.Inv → event e s = .next t → t.Inv

/-- Hence after any sequence of events in any order. -/
def Obligations.EverySequenceOfEventsKeepsInvariant : Prop :=
  ∀ (es : List Event) (s : State), s.Inv → (afterEvents s es).Inv

/-- While no host writes pc or the stack, pc stays at most 0x10FE and the slots hold fetchable addresses
(10_state.md R24, R25; 40_flow_stack.md R100; decisions D3, D14). -/
def Obligations.StepKeepsPcBound : Prop :=
  ∀ s t : State, s.PcBounded → step s = .next t → t.PcBounded

/-- Every state with the invariant has a next one under the Cycle event (70_reset_and_hazards.md R201). A faulting cycle
counts as a next state, the one with the latch set, and so does a cycle that the latch freezes: that rests on decision D6
of the spec and on the model's reading of it (log entry 1, DEDUCED; R183 also lets a model treat a set latch as
terminal). -/
def Obligations.StepAlwaysAnswersANextState : Prop :=
  ∀ s : State, s.Inv → ∃ t, step s = .next t

/-! ## The step -/

/-- The bytes at pc, the lower address the high byte, are decoded, and the step is exec of that instruction and nothing
around it (70_reset_and_hazards.md R201, R203; byte order decision D1). -/
def Obligations.StepRunsTheDecodedInstruction : Prop :=
  ∀ (s : State) (i : Instr), s.fault = none → s.pc.toNat ≤ 0xFFE →
    decodeBytes (s.mem.read s.pc.toNat) (s.mem.read (s.pc.toNat + 1)) = .instr i → step s = exec i s

/-- An unmatched word (30_encoding.md R90, decision D7): under `nop` only pc advances, under `fault` DecodeError. -/
def Obligations.StepOnUnmatchedWord : Prop :=
  ∀ (s : State) (w : Word), s.fault = none → s.pc.toNat ≤ 0xFFE →
    decodeBytes (s.mem.read s.pc.toNat) (s.mem.read (s.pc.toNat + 1)) = .unmatched w →
    (s.policy = .nop → ∃ t, step s = .next t ∧ t.pc = s.pc + 2 ∧ Frame {} s t) ∧
    (s.policy = .fault → step s = .next { s with fault := some ⟨.decodeError, w.toNat⟩ })

/-- A fetch past the end of memory sets the latch and nothing else (10_state.md R25, 60_exceptions.md R171; the latch is
decision D6, its code and info D8). -/
def Obligations.FetchPastTheEndFaults : Prop :=
  ∀ s : State, s.fault = none → 0xFFF ≤ s.pc.toNat →
    step s = .next { s with fault := some ⟨.fetchOutOfBounds, s.pc.toNat⟩ }

/-- A Cycle while the latch is set does nothing at all (60_exceptions.md R177, decision D6). -/
def Obligations.SetLatchFreezesTheCycle : Prop :=
  ∀ s : State, s.fault ≠ none → step s = .next s

/-- A faulting cycle commits nothing but the latch, and the latch tells the one condition of R170 that held
(60_exceptions.md R170, R176, R177, R181; decisions D5, D6, D8, D9). -/
def Obligations.FaultingCycleOnlySetsTheLatch : Prop :=
  ∀ (s t : State) (f : FaultRecord), s.fault = none → step s = .next t → t.fault = some f →
    t = { s with fault := some f } ∧
    ((f = ⟨.fetchOutOfBounds, s.pc.toNat⟩ ∧ 0xFFE < s.pc.toNat) ∨
     (∃ w, s.fetch = some w ∧
       ((decodeWord w = .unmatched w ∧ s.policy = .fault ∧ f = ⟨.decodeError, w.toNat⟩) ∨
        (∃ nnn, decodeWord w = .instr (.call nnn) ∧ 15 ≤ s.sp.toNat ∧ f = ⟨.stackOverflow, s.pc.toNat⟩) ∨
        (decodeWord w = .instr .ret ∧ s.sp = 0 ∧ f = ⟨.stackUnderflow, s.pc.toNat⟩) ∨
        (∃ x, (decodeWord w = .instr (.skp x) ∨ decodeWord w = .instr (.sknp x)) ∧ 15 < (s.reg x).toNat ∧
          f = ⟨.keyIndexOutOfRange, (s.reg x).toNat⟩) ∨
        (f = ⟨.outOfBounds, max s.i.toNat 4096⟩ ∧
          ((∃ x y n, decodeWord w = .instr (.drw x y n) ∧ 1 ≤ n.toNat ∧ 4095 < s.i.toNat + (n.toNat - 1)) ∨
           (∃ x, decodeWord w = .instr (.ldBVx x) ∧ 4095 < s.i.toNat + 2) ∨
           (∃ x, (decodeWord w = .instr (.ldMemIVx x) ∨ decodeWord w = .instr (.ldVxMemI x)) ∧
             4095 < s.i.toNat + x.toNat))))))

/-- The latch as the rules write it (60_exceptions.md R170, R177; the codes and info values are decision D8, the latch D6):
none, or the pair of the cause's code, 1 to 6, and its info; no two causes share a code. -/
def Obligations.LatchReadsAsCodeAndInfo : Prop :=
  (∀ s : State, s.fault = none → s.faultPair = none) ∧
  (∀ (s : State) (f : FaultRecord), s.fault = some f → s.faultPair = some (f.cause.code, f.info)) ∧
  FaultCause.fetchOutOfBounds.code = 1 ∧ FaultCause.outOfBounds.code = 2 ∧ FaultCause.stackOverflow.code = 3 ∧
  FaultCause.stackUnderflow.code = 4 ∧ FaultCause.decodeError.code = 5 ∧ FaultCause.keyIndexOutOfRange.code = 6 ∧
  ∀ c d : FaultCause, c.code = d.code → c = d

/-- After ClearFault a Cycle on the otherwise unchanged state faults again with the same cause (60_exceptions.md R178,
decision D6). -/
def Obligations.ClearedFaultIsRaisedAgain : Prop :=
  ∀ (s t : State) (f : FaultRecord), s.fault = none → step s = .next t → t.fault = some f →
    event .clearFault t = .next s ∧ step (clearFault t) = .next t

/-- A parked state is a fixed point of the Cycle (70_reset_and_hazards.md R213, decision D25). -/
def Obligations.ParkedStateIsFixed : Prop :=
  ∀ s : State, s.parked → step s = .next s

/-! ## Rules over all instructions -/

/-- The frame rule (00_scope.md R12, decision D19) with the list of flag writers (10_state.md R21): what changed tells
which instruction ran. -/
def Obligations.ChangesNameTheInstruction : Prop :=
  ∀ (i : Instr) (s t : State), exec i s = .next t →
    (t.i ≠ s.i → (∃ nnn, i = .ldINnn nnn) ∨ (∃ x, i = .addIVx x) ∨ (∃ x, i = .ldFVx x)) ∧
    (∀ a, t.mem.read a ≠ s.mem.read a → (∃ x, i = .ldBVx x) ∨ (∃ x, i = .ldMemIVx x)) ∧
    (∀ x y, pixel t.fb x y ≠ pixel s.fb x y → i = .cls ∨ ∃ a b n, i = .drw a b n) ∧
    (t.sp ≠ s.sp → i = .ret ∨ ∃ nnn, i = .call nnn) ∧
    (∀ k, t.slot k ≠ s.slot k → ∃ nnn, i = .call nnn) ∧
    (t.dt ≠ s.dt → ∃ x, i = .ldDtVx x) ∧ (t.st ≠ s.st → ∃ x, i = .ldStVx x) ∧
    (t.rndDraws ≠ s.rndDraws → ∃ x kk, i = .rndVxKk x kk) ∧ t.keys = s.keys ∧ t.policy = s.policy ∧
    t.font = s.font ∧
    (t.reg 0xF ≠ s.reg 0xF →
      (∃ x y, i = .addVxVy x y ∨ i = .subVxVy x y ∨ i = .subnVxVy x y ∨ i = .shrVx x y ∨ i = .shlVx x y) ∨
      (∃ x y n, i = .drw x y n) ∨
      (∃ y kk, i = .ldVxKk 0xF kk ∨ i = .addVxKk 0xF kk ∨ i = .rndVxKk 0xF kk ∨ i = .ldVxVy 0xF y ∨
        i = .orVxVy 0xF y ∨ i = .andVxVy 0xF y ∨ i = .xorVxVy 0xF y) ∨
      i = .ldVxDt 0xF ∨ i = .ldVxK 0xF ∨ i = .ldVxMemI 0xF)

/-- Slot 0 is never written, a call writes the one slot above SP, and a return clears nothing (10_state.md R31, R32,
derived by the spec). -/
def Obligations.OnlyTheSlotAboveSpIsWritten : Prop :=
  ∀ (i : Instr) (s t : State), exec i s = .next t →
    t.slot 0x0 = s.slot 0x0 ∧
    ∀ k, t.slot k ≠ s.slot k → (∃ nnn, i = .call nnn) ∧ k.toNat = s.sp.toNat + 1 ∧ t.sp = s.sp + 1

/-- Only the key instructions depend on the keys and only Cxkk on the random byte (70_reset_and_hazards.md R204,
decision D23): any other instruction does the same whatever these inputs are. -/
def Obligations.InputsMatterOnlyToTheirInstructions : Prop :=
  ∀ (i : Instr) (s t : State), exec i s = .next t →
    (∀ keys, (∀ x, i ≠ .skp x ∧ i ≠ .sknp x ∧ i ≠ .ldVxK x) →
      exec i { s with keys := keys } = .next { t with keys := keys }) ∧
    (∀ n, (∀ x kk, i ≠ .rndVxKk x kk) →
      exec i { s with rndDraws := n } = .next { t with rndDraws := n })

/-! ## Flow and stack (spec/40_flow_stack.md) -/

/-- R104: JP. -/
def Obligations.JumpWritesPc : Prop :=
  EncodedAs 0x1000 0xF000 (fun w => .jp (fieldNnn w)) ∧
  ∀ (nnn : Addr12) (s : State), ∃ t, exec (.jp nnn) s = .next t ∧ t.pc.toNat = nnn.toNat ∧ Frame {} s t

/-- JP V0 adds V0, with no reduction to 12 bits (R106, decision D14). -/
def Obligations.JumpWithOffsetAddsV0 : Prop :=
  EncodedAs 0xB000 0xF000 (fun w => .jpV0 (fieldNnn w)) ∧
  ∀ (nnn : Addr12) (s : State), ∃ t, exec (.jpV0 nnn) s = .next t ∧
    t.pc.toNat = (s.reg 0x0).toNat + nnn.toNat ∧ Frame {} s t

/-- CALL pushes its own address on the slot above SP; with SP at 15 it faults and pushes nothing (R101, R105; decisions
D3, D18, and D6, D8 for the latch). -/
def Obligations.CallPushesItsOwnAddress : Prop :=
  EncodedAs 0x2000 0xF000 (fun w => .call (fieldNnn w)) ∧
  ∀ (nnn : Addr12) (s : State),
    (∀ k : Nibble, k.toNat = s.sp.toNat + 1 → ∃ t, exec (.call nnn) s = .next t ∧ t.pc.toNat = nnn.toNat ∧
      t.sp.toNat = s.sp.toNat + 1 ∧ t.slot k = s.pc ∧ Frame { sp := true, slots := [k] } s t) ∧
    (15 ≤ s.sp.toNat →
      exec (.call nnn) s = .next { s with fault := some ⟨.stackOverflow, s.pc.toNat⟩ })

/-- RET resumes two bytes after the saved address; with SP at 0 it faults (R102, R103; decisions D3, D18, and D6, D8 for
the latch). A state with SP above 15 is none of the spec's, and there the model stops (log entry 2). -/
def Obligations.ReturnResumesAfterTheCall : Prop :=
  EncodedAs 0x00EE 0xFFFF (fun _ => .ret) ∧
  ∀ s : State,
    (∀ k : Nibble, 1 ≤ k.toNat → k.toNat = s.sp.toNat → ∃ t, exec .ret s = .next t ∧ t.pc = s.slot k + 2 ∧
      t.sp.toNat = s.sp.toNat - 1 ∧ Frame { sp := true } s t) ∧
    (s.sp = 0 → exec .ret s = .next { s with fault := some ⟨.stackUnderflow, s.pc.toNat⟩ }) ∧
    (15 < s.sp.toNat → exec .ret s = .fault (.stackSlotAbsent s.sp.toNat))

/-- A subroutine that returns with the SP and the stack it was entered with goes on after the call (R107, derived by the
spec), and `Return()` right after `Call(t)` restores pc and SP. -/
def Obligations.CallThenReturnRoundTrip : Prop :=
  ∀ (nnn : Addr12) (s : State), s.sp.toNat ≤ 14 →
    (∃ t, exec (.call nnn) s = .next t ∧
      ∀ v : State, v.sp = t.sp → v.stk = t.stk →
        ∃ u, exec .ret v = .next u ∧ u.pc = s.pc + 2 ∧ u.sp = s.sp) ∧
    ∀ target : Word, ∃ t u, callTo target s = .done t ∧ returnFrom t = .done u ∧ u.pc = s.pc ∧ u.sp = s.sp

/-! ## Skips (spec/41_skip.md) -/

/-- R111, R112: SE and SNE against a constant. -/
def Obligations.SkipOnConstant : Prop :=
  EncodedAs 0x3000 0xF000 (fun w => .seVxKk (fieldX w) (fieldKk w)) ∧
  EncodedAs 0x4000 0xF000 (fun w => .sneVxKk (fieldX w) (fieldKk w)) ∧
  ∀ (x : Nibble) (kk : Byte) (s : State),
    (∃ t, exec (.seVxKk x kk) s = .next t ∧
      t.pc = (if s.reg x = kk then s.pc + 4 else s.pc + 2) ∧ Frame {} s t) ∧
    (∃ t, exec (.sneVxKk x kk) s = .next t ∧
      t.pc = (if s.reg x ≠ kk then s.pc + 4 else s.pc + 2) ∧ Frame {} s t)

/-- R113, R114: SE and SNE between registers; with a last nibble other than 0 the word is unmatched. -/
def Obligations.SkipOnRegisters : Prop :=
  EncodedAs 0x5000 0xF00F (fun w => .seVxVy (fieldX w) (fieldY w)) ∧
  EncodedAs 0x9000 0xF00F (fun w => .sneVxVy (fieldX w) (fieldY w)) ∧
  (∀ w : Word, fieldOp w = 0x5 ∨ fieldOp w = 0x9 → fieldN w ≠ 0x0 → decodeWord w = .unmatched w) ∧
  ∀ (x y : Nibble) (s : State),
    (∃ t, exec (.seVxVy x y) s = .next t ∧
      t.pc = (if s.reg x = s.reg y then s.pc + 4 else s.pc + 2) ∧ Frame {} s t) ∧
    (∃ t, exec (.sneVxVy x y) s = .next t ∧
      t.pc = (if s.reg x ≠ s.reg y then s.pc + 4 else s.pc + 2) ∧ Frame {} s t)

/-! ## Arithmetic, logic and shifts (spec/42_alu.md, spec/43_shift.md) -/

/-- R121, R123: the loads of a constant and of a register. -/
def Obligations.LoadWritesTheRegister : Prop :=
  EncodedAs 0x6000 0xF000 (fun w => .ldVxKk (fieldX w) (fieldKk w)) ∧
  EncodedAs 0x8000 0xF00F (fun w => .ldVxVy (fieldX w) (fieldY w)) ∧
  ∀ (x y : Nibble) (kk : Byte) (s : State),
    (∃ t, exec (.ldVxKk x kk) s = .next t ∧ t.reg x = kk ∧ t.pc = s.pc + 2 ∧ Frame { regs := [x] } s t) ∧
    (∃ t, exec (.ldVxVy x y) s = .next t ∧ t.reg x = s.reg y ∧ t.pc = s.pc + 2 ∧ Frame { regs := [x] } s t)

/-- R122: the add of a constant wraps and writes no flag. -/
def Obligations.AddConstantWrapsWithoutFlag : Prop :=
  EncodedAs 0x7000 0xF000 (fun w => .addVxKk (fieldX w) (fieldKk w)) ∧
  ∀ (x : Nibble) (kk : Byte) (s : State), ∃ t, exec (.addVxKk x kk) s = .next t ∧
    (t.reg x).toNat = ((s.reg x).toNat + kk.toNat) % 256 ∧ t.pc = s.pc + 2 ∧ Frame { regs := [x] } s t

/-- R124, R125, R126: the bitwise operations, bit by bit; that VF is not written rests on the frame rule, decision D19. -/
def Obligations.LogicIsBitwise : Prop :=
  EncodedAs 0x8001 0xF00F (fun w => .orVxVy (fieldX w) (fieldY w)) ∧
  EncodedAs 0x8002 0xF00F (fun w => .andVxVy (fieldX w) (fieldY w)) ∧
  EncodedAs 0x8003 0xF00F (fun w => .xorVxVy (fieldX w) (fieldY w)) ∧
  ∀ (x y : Nibble) (s : State),
    (∃ t, exec (.orVxVy x y) s = .next t ∧
      (∀ b, (t.reg x).getLsbD b = ((s.reg x).getLsbD b || (s.reg y).getLsbD b)) ∧
      t.pc = s.pc + 2 ∧ Frame { regs := [x] } s t) ∧
    (∃ t, exec (.andVxVy x y) s = .next t ∧
      (∀ b, (t.reg x).getLsbD b = ((s.reg x).getLsbD b && (s.reg y).getLsbD b)) ∧
      t.pc = s.pc + 2 ∧ Frame { regs := [x] } s t) ∧
    (∃ t, exec (.xorVxVy x y) s = .next t ∧
      (∀ b, (t.reg x).getLsbD b = ((s.reg x).getLsbD b ^^ (s.reg y).getLsbD b)) ∧
      t.pc = s.pc + 2 ∧ Frame { regs := [x] } s t)

/-- R127: the add with carry; with x = 0xF the sum wins over the flag (R130, decision D4). -/
def Obligations.AddSetsCarry : Prop :=
  EncodedAs 0x8004 0xF00F (fun w => .addVxVy (fieldX w) (fieldY w)) ∧
  ∀ (x y : Nibble) (s : State), ∃ t, exec (.addVxVy x y) s = .next t ∧
    (t.reg x).toNat = ((s.reg x).toNat + (s.reg y).toNat) % 256 ∧
    (x ≠ 0xF → t.reg 0xF = if (s.reg x).toNat + (s.reg y).toNat > 255 then 0x01 else 0x00) ∧
    t.pc = s.pc + 2 ∧ Frame { regs := [x, 0xF] } s t

/-- R128, R129: the subtracts wrap, and the flag is strictly "greater", 0 for equal operands; with x = 0xF the difference
wins over the flag (R130, decision D4). -/
def Obligations.SubtractFlagIsStrict : Prop :=
  EncodedAs 0x8005 0xF00F (fun w => .subVxVy (fieldX w) (fieldY w)) ∧
  EncodedAs 0x8007 0xF00F (fun w => .subnVxVy (fieldX w) (fieldY w)) ∧
  ∀ (x y : Nibble) (s : State),
    (∃ t, exec (.subVxVy x y) s = .next t ∧
      (t.reg x).toNat = ((s.reg x).toNat + 256 - (s.reg y).toNat) % 256 ∧
      (x ≠ 0xF → t.reg 0xF = if (s.reg x).toNat > (s.reg y).toNat then 0x01 else 0x00) ∧
      t.pc = s.pc + 2 ∧ Frame { regs := [x, 0xF] } s t) ∧
    (∃ t, exec (.subnVxVy x y) s = .next t ∧
      (t.reg x).toNat = ((s.reg y).toNat + 256 - (s.reg x).toNat) % 256 ∧
      (x ≠ 0xF → t.reg 0xF = if (s.reg y).toNat > (s.reg x).toNat then 0x01 else 0x00) ∧
      t.pc = s.pc + 2 ∧ Frame { regs := [x, 0xF] } s t)

/-- R135, R136, R137: the shifts by one, the bit shifted out in VF, y without effect; with x = 0xF the shifted value
wins over the flag (R130, decision D4). -/
def Obligations.ShiftsMoveOneBit : Prop :=
  EncodedAs 0x8006 0xF00F (fun w => .shrVx (fieldX w) (fieldY w)) ∧
  EncodedAs 0x800E 0xF00F (fun w => .shlVx (fieldX w) (fieldY w)) ∧
  ∀ (x y : Nibble) (s : State),
    (∃ t, exec (.shrVx x y) s = .next t ∧ (t.reg x).toNat = (s.reg x).toNat / 2 ∧
      (x ≠ 0xF → (t.reg 0xF).toNat = (s.reg x).toNat % 2) ∧ t.pc = s.pc + 2 ∧ Frame { regs := [x, 0xF] } s t) ∧
    (∃ t, exec (.shlVx x y) s = .next t ∧ (t.reg x).toNat = 2 * (s.reg x).toNat % 256 ∧
      (x ≠ 0xF → (t.reg 0xF).toNat = (s.reg x).toNat / 128) ∧ t.pc = s.pc + 2 ∧
      Frame { regs := [x, 0xF] } s t) ∧
    ∀ z : Nibble, exec (.shrVx x z) s = exec (.shrVx x y) s ∧ exec (.shlVx x z) s = exec (.shlVx x y) s

/-- R132: the random byte is masked; whatever the draw is (it is free, log entry 6), V[x] has no bit kk lacks. -/
def Obligations.RandomByteIsMasked : Prop :=
  EncodedAs 0xC000 0xF000 (fun w => .rndVxKk (fieldX w) (fieldKk w)) ∧
  ∀ (x : Nibble) (kk : Byte) (s : State), ∃ t, exec (.rndVxKk x kk) s = .next t ∧
    t.reg x = Config.rnd s.rndDraws &&& kk ∧ (∀ b, kk.getLsbD b = false → (t.reg x).getLsbD b = false) ∧
    (t.reg x).toNat ≤ kk.toNat ∧ t.rndDraws = s.rndDraws + 1 ∧ t.pc = s.pc + 2 ∧
    Frame { regs := [x], draws := true } s t

/-! ## The address register and memory (spec/44_index_memory.md) -/

/-- R140, R142: LD I and the glyph address of LD F. -/
def Obligations.AddressRegisterLoads : Prop :=
  EncodedAs 0xA000 0xF000 (fun w => .ldINnn (fieldNnn w)) ∧
  EncodedAs 0xF029 0xF0FF (fun w => .ldFVx (fieldX w)) ∧
  ∀ (nnn : Addr12) (x : Nibble) (s : State),
    (∃ t, exec (.ldINnn nnn) s = .next t ∧ t.i.toNat = nnn.toNat ∧ t.pc = s.pc + 2 ∧
      Frame { i := true } s t) ∧
    (∃ t, exec (.ldFVx x) s = .next t ∧ t.i.toNat = 0x050 + 5 * (s.reg x).toNat ∧ t.pc = s.pc + 2 ∧
      Frame { i := true } s t)

/-- ADD I, modulo 65536, no flag (R141, decision D13). -/
def Obligations.AddToAddressRegister : Prop :=
  EncodedAs 0xF01E 0xF0FF (fun w => .addIVx (fieldX w)) ∧
  ∀ (x : Nibble) (s : State), ∃ t, exec (.addIVx x) s = .next t ∧
    t.i.toNat = (s.i.toNat + (s.reg x).toNat) % 65536 ∧ t.pc = s.pc + 2 ∧ Frame { i := true } s t

/-- LD B stores the three decimal digits at I, I + 1, I + 2, and I stays (R143; R146 by decision D19). -/
def Obligations.BcdStoresThreeDigits : Prop :=
  EncodedAs 0xF033 0xF0FF (fun w => .ldBVx (fieldX w)) ∧
  ∀ (x : Nibble) (s : State), s.mem.wf = true → s.i.toNat + 2 ≤ 4095 →
    ∃ t, exec (.ldBVx x) s = .next t ∧
      (t.mem.read s.i.toNat).toNat = (s.reg x).toNat / 100 ∧
      (t.mem.read (s.i.toNat + 1)).toNat = (s.reg x).toNat / 10 % 10 ∧
      (t.mem.read (s.i.toNat + 2)).toNat = (s.reg x).toNat % 10 ∧
      t.pc = s.pc + 2 ∧ Frame { storeAt := s.i.toNat, stored := 3 } s t

/-- LD [I] stores V[0] to V[x] from I up, and I stays (R144; R146 by decision D19). -/
def Obligations.StoreWritesRegistersToMemory : Prop :=
  EncodedAs 0xF055 0xF0FF (fun w => .ldMemIVx (fieldX w)) ∧
  ∀ (x : Nibble) (s : State), s.mem.wf = true → s.i.toNat + x.toNat ≤ 4095 →
    ∃ t, exec (.ldMemIVx x) s = .next t ∧
      (∀ r : Nibble, r.toNat ≤ x.toNat → t.mem.read (s.i.toNat + r.toNat) = s.reg r) ∧
      t.pc = s.pc + 2 ∧ Frame { storeAt := s.i.toNat, stored := x.toNat + 1 } s t

/-- LD Vx,[I] loads V[0] to V[x] from I up; the registers above x, memory and I stay (R145; R146 by decision D19). -/
def Obligations.LoadReadsRegistersFromMemory : Prop :=
  EncodedAs 0xF065 0xF0FF (fun w => .ldVxMemI (fieldX w)) ∧
  ∀ (x : Nibble) (s : State), s.i.toNat + x.toNat ≤ 4095 →
    ∃ t, exec (.ldVxMemI x) s = .next t ∧
      (∀ r : Nibble, r.toNat ≤ x.toNat → t.reg r = s.mem.read (s.i.toNat + r.toNat)) ∧
      (∀ r : Nibble, x.toNat < r.toNat → t.reg r = s.reg r) ∧
      t.pc = s.pc + 2 ∧ Frame { regs := (List.range (x.toNat + 1)).map (BitVec.ofNat 4) } s t

/-- A transfer with a byte above 4095 faults with the lowest such address and writes nothing (20_memory.md R56, R59;
60_exceptions.md R174; decisions D5, D6, D8). -/
def Obligations.TransferPastTheEndFaults : Prop :=
  ∀ (x : Nibble) (s : State),
    (4095 < s.i.toNat + 2 →
      exec (.ldBVx x) s = .next { s with fault := some ⟨.outOfBounds, max s.i.toNat 4096⟩ }) ∧
    (4095 < s.i.toNat + x.toNat →
      exec (.ldMemIVx x) s = .next { s with fault := some ⟨.outOfBounds, max s.i.toNat 4096⟩ } ∧
      exec (.ldVxMemI x) s = .next { s with fault := some ⟨.outOfBounds, max s.i.toNat 4096⟩ })

/-- A store followed by a load from the same I restores V[0] to V[x], whatever happened in between to anything but those
bytes and I (R147, derived by the spec). -/
def Obligations.StoreThenLoadRestoresRegisters : Prop :=
  ∀ (x : Nibble) (s : State), s.mem.wf = true → s.i.toNat + x.toNat ≤ 4095 →
    ∃ t, exec (.ldMemIVx x) s = .next t ∧
      ∀ u : State, u.i = t.i →
        (∀ r : Nibble, r.toNat ≤ x.toNat → u.mem.read (t.i.toNat + r.toNat) = t.mem.read (t.i.toNat + r.toNat)) →
        ∃ w, exec (.ldVxMemI x) u = .next w ∧ ∀ r : Nibble, r.toNat ≤ x.toNat → w.reg r = s.reg r

/-- Two bytes stored where the next instruction stands are the word the next cycle fetches (20_memory.md R65, derived by
the spec; byte order decision D1). -/
def Obligations.StoreIsSeenByTheNextFetch : Prop :=
  ∀ (x r q : Nibble) (s : State), s.mem.wf = true → s.i.toNat + x.toNat ≤ 4095 →
    q.toNat = r.toNat + 1 → q.toNat ≤ x.toNat → (s.pc + 2).toNat = s.i.toNat + r.toNat →
    ∃ t, exec (.ldMemIVx x) s = .next t ∧ t.fetch = some (wordOfBytes (s.reg r) (s.reg q))

/-! ## Display (spec/45_display.md) -/

/-- R150: CLS turns every pixel off. -/
def Obligations.ClearTurnsEveryPixelOff : Prop :=
  EncodedAs 0x00E0 0xFFFF (fun _ => .cls) ∧
  ∀ s : State, ∃ t, exec .cls s = .next t ∧ (∀ x y, pixel t.fb x y = false) ∧ t.pc = s.pc + 2 ∧
    Frame { screen := true } s t

/-- DRW is a true XOR of the sprite onto every pixel, wrapping on both axes, and VF tells whether a lit pixel went off;
a sprite past the end of memory faults and draws nothing (R151, R152, R154, R155; bit order decision D10, the fault
D5, D6, D8). With x or y = 0xF the old VF is the coordinate. -/
def Obligations.DrawXorsTheSprite : Prop :=
  EncodedAs 0xD000 0xF000 (fun w => .drw (fieldX w) (fieldY w) (fieldN w)) ∧
  ∀ (x y n : Nibble) (s : State),
    (n = 0x0 ∨ s.i.toNat + (n.toNat - 1) ≤ 4095 → ∃ t, exec (.drw x y n) s = .next t ∧
      (∀ px py, pixel t.fb px py = (pixel s.fb px py ^^
        spriteCovers (s.reg x).toNat (s.reg y).toNat (s.mem.readBytes s.i.toNat n.toNat) px py)) ∧
      (t.reg 0xF = 0x01 ∨ t.reg 0xF = 0x00) ∧
      (t.reg 0xF = 0x01 ↔ ∃ px py, pixel s.fb px py = true ∧ pixel t.fb px py = false) ∧
      t.pc = s.pc + 2 ∧ Frame { regs := [0xF], screen := true } s t) ∧
    (1 ≤ n.toNat → 4095 < s.i.toNat + (n.toNat - 1) →
      exec (.drw x y n) s = .next { s with fault := some ⟨.outOfBounds, max s.i.toNat 4096⟩ })

/-- Drawing the same sprite again at the same place restores every pixel; on a blank screen the first draw reports no
collision and the second reports one when the sprite has a set bit (R158, property S6). -/
def Obligations.DrawTwiceRestoresTheScreen : Prop :=
  ∀ (x y n : Nibble) (s : State), (n = 0x0 ∨ s.i.toNat + (n.toNat - 1) ≤ 4095) →
    ∃ t, exec (.drw x y n) s = .next t ∧
      ∀ x' y' : Nibble, t.reg x' = s.reg x → t.reg y' = s.reg y →
        ∃ u, exec (.drw x' y' n) t = .next u ∧ (∀ px py, pixel u.fb px py = pixel s.fb px py) ∧
          ((∀ px py, pixel s.fb px py = false) →
            t.reg 0xF = 0x00 ∧ (u.reg 0xF = 0x01 ↔ ∃ px py, pixel t.fb px py = true))

/-- A draw of zero rows reads no memory, changes no pixel, writes 0 to VF and cannot fault (R157, derived by the
spec). -/
def Obligations.DrawOfZeroRowsClearsVf : Prop :=
  ∀ (x y : Nibble) (s : State), ∃ t, exec (.drw x y 0x0) s = .next t ∧ t.reg 0xF = 0x00 ∧ t.pc = s.pc + 2 ∧
    Frame { regs := [0xF] } s t

/-! ## Keypad and timers (spec/46_keypad_timer.md) -/

/-- SKP and SKNP on a key number 0 to 15, and their fault above it (R160, R161, R166; decision D9, the latch D6, D8). -/
def Obligations.KeyTestSkipsOrFaults : Prop :=
  EncodedAs 0xE09E 0xF0FF (fun w => .skp (fieldX w)) ∧
  EncodedAs 0xE0A1 0xF0FF (fun w => .sknp (fieldX w)) ∧
  ∀ (x : Nibble) (s : State),
    (∀ k : Nibble, k.toNat = (s.reg x).toNat →
      (∃ t, exec (.skp x) s = .next t ∧
        t.pc = (if s.key k = true then s.pc + 4 else s.pc + 2) ∧ Frame {} s t) ∧
      (∃ t, exec (.sknp x) s = .next t ∧
        t.pc = (if s.key k = true then s.pc + 2 else s.pc + 4) ∧ Frame {} s t)) ∧
    (15 < (s.reg x).toNat →
      exec (.skp x) s = .next { s with fault := some ⟨.keyIndexOutOfRange, (s.reg x).toNat⟩ } ∧
      exec (.sknp x) s = .next { s with fault := some ⟨.keyIndexOutOfRange, (s.reg x).toNat⟩ })

/-- R162: the key wait stores the least pressed key, and changes nothing while none is pressed. -/
def Obligations.KeyWaitTakesTheLeastKey : Prop :=
  EncodedAs 0xF00A 0xF0FF (fun w => .ldVxK (fieldX w)) ∧
  ∀ (x : Nibble) (s : State),
    (∀ k : Nibble, s.key k = true → (∀ j : Nibble, j.toNat < k.toNat → s.key j = false) →
      ∃ t, exec (.ldVxK x) s = .next t ∧ (t.reg x).toNat = k.toNat ∧ t.pc = s.pc + 2 ∧
        Frame { regs := [x] } s t) ∧
    ((∀ k : Nibble, s.key k = false) → exec (.ldVxK x) s = .next s)

/-- R163, R164, R165: reading DT, writing DT and ST. -/
def Obligations.TimerRegistersMove : Prop :=
  EncodedAs 0xF007 0xF0FF (fun w => .ldVxDt (fieldX w)) ∧
  EncodedAs 0xF015 0xF0FF (fun w => .ldDtVx (fieldX w)) ∧
  EncodedAs 0xF018 0xF0FF (fun w => .ldStVx (fieldX w)) ∧
  ∀ (x : Nibble) (s : State),
    (∃ t, exec (.ldVxDt x) s = .next t ∧ t.reg x = s.dt ∧ t.pc = s.pc + 2 ∧ Frame { regs := [x] } s t) ∧
    (∃ t, exec (.ldDtVx x) s = .next t ∧ t.dt = s.reg x ∧ t.pc = s.pc + 2 ∧ Frame { dt := true } s t) ∧
    (∃ t, exec (.ldStVx x) s = .next t ∧ t.st = s.reg x ∧ t.pc = s.pc + 2 ∧ Frame { st := true } s t)

/-- A Tick takes one from each timer that is not 0 and changes nothing else, latch set or not (R167, decision D11). -/
def Obligations.TickCountsBothTimersDown : Prop :=
  ∀ s : State, ∃ t, event .tick s = .next t ∧ t.dt.toNat = s.dt.toNat - 1 ∧ t.st.toNat = s.st.toNat - 1 ∧
    t.pc = s.pc ∧ Frame { dt := true, st := true } s t

/-- Under every schedule: DT and ST rise only by Fx15, Fx18 or a host write (R168, decision D11). -/
def Obligations.TimersRiseOnlyWhenWritten : Prop :=
  ∀ (e : Event) (s t : State), event e s = .next t →
    (s.dt.toNat < t.dt.toNat → (∃ b, e = .writeDt b) ∨
      (e = .cycle ∧ ∃ w x, s.fetch = some w ∧ decodeWord w = .instr (.ldDtVx x))) ∧
    (s.st.toNat < t.st.toNat → (∃ b, e = .writeSt b) ∨
      (e = .cycle ∧ ∃ w x, s.fetch = some w ∧ decodeWord w = .instr (.ldStVx x)))

/-! ## Load and host access (spec/20_memory.md section 5, spec/10_state.md section 8) -/

/-- Load writes the bytes from 0x200 up and nothing else; a buffer of more than 3584 bytes is refused whole (R68,
decision D17; R69 for the empty one). -/
def Obligations.LoadWritesTheProgramRegion : Prop :=
  ∀ (bytes : List Byte) (s : State), s.mem.wf = true →
    (bytes.length ≤ 3584 → ∃ t, event (.load bytes) s = .next t ∧
      (∀ j (h : j < bytes.length), t.mem.read (0x200 + j) = bytes[j]) ∧ t.pc = s.pc ∧
      Frame { storeAt := 0x200, stored := bytes.length } s t) ∧
    (3584 < bytes.length → event (.load bytes) s = .refused (.loadTooLong bytes.length)) ∧
    event (.load []) s = .next s

/-- A host access to a byte 0 to 4095 reads what was written and changes nothing else; outside it, and for SP above 15,
the host is refused (R70; R43 by decision D16; R182). -/
def Obligations.HostAccessIsBounded : Prop :=
  ∀ (a : Nat) (b : Byte) (s : State), s.mem.wf = true →
    (a ≤ 4095 → hostReadByte a s = .next (s.mem.read a) ∧ ∃ t, event (.writeByte a b) s = .next t ∧
      hostReadByte a t = .next b ∧ t.pc = s.pc ∧ Frame { storeAt := a, stored := 1 } s t) ∧
    (4095 < a → hostReadByte a s = .refused (.hostAddressOutOfBounds a) ∧
      event (.writeByte a b) s = .refused (.hostAddressOutOfBounds a)) ∧
    (b.toNat ≤ 15 → ∃ t, event (.writeSp b) s = .next t ∧ t.sp = b ∧ t.pc = s.pc ∧ Frame { sp := true } s t) ∧
    (15 < b.toNat → event (.writeSp b) s = .refused (.hostStackPointerOutOfRange b.toNat))
end

