-- ==== Sys2Proof/Laws/Decode.lean ====
section
/-! SUPPORT. The fields of an encoded word, the masks of R84 as tests on fields, and words rebuilt from their fields. -/

namespace Sys2Proof

/-! ## Fields as numbers -/

theorem toNat_fieldOp (w : Word) : (fieldOp w).toNat = w.toNat / 4096 := by
  have := w.isLt
  simp only [fieldOp, BitVec.extractLsb'_toNat, Nat.shiftRight_eq_div_pow]
  omega

theorem toNat_fieldX (w : Word) : (fieldX w).toNat = w.toNat / 256 % 16 := by
  simp [fieldX, BitVec.extractLsb'_toNat, Nat.shiftRight_eq_div_pow]

theorem toNat_fieldY (w : Word) : (fieldY w).toNat = w.toNat / 16 % 16 := by
  simp [fieldY, BitVec.extractLsb'_toNat, Nat.shiftRight_eq_div_pow]

theorem toNat_fieldN (w : Word) : (fieldN w).toNat = w.toNat % 16 := by
  simp [fieldN, BitVec.extractLsb'_toNat]

theorem toNat_fieldKk (w : Word) : (fieldKk w).toNat = w.toNat % 256 := by
  simp [fieldKk, BitVec.extractLsb'_toNat]

theorem toNat_fieldNnn (w : Word) : (fieldNnn w).toNat = w.toNat % 4096 := by
  simp [fieldNnn, BitVec.extractLsb'_toNat]

theorem toNat_append' {m n : Nat} (a : BitVec m) (b : BitVec n) : (a ++ b).toNat = a.toNat * 2 ^ n + b.toNat := by
  rw [BitVec.toNat_append, Nat.shiftLeft_eq, Nat.mul_comm, ← Nat.two_pow_add_eq_or_of_lt b.isLt]

theorem toNat_encodeNnn (op : Nibble) (nnn : Addr12) : (encodeNnn op nnn).toNat = op.toNat * 4096 + nnn.toNat := by
  unfold encodeNnn; rw [toNat_append']; omega

theorem toNat_encodeXkk (op x : Nibble) (kk : Byte) :
    (encodeXkk op x kk).toNat = op.toNat * 4096 + x.toNat * 256 + kk.toNat := by
  unfold encodeXkk; rw [toNat_append', toNat_append']; omega

theorem toNat_encodeXyn (op x y n : Nibble) :
    (encodeXyn op x y n).toNat = op.toNat * 4096 + x.toNat * 256 + y.toNat * 16 + n.toNat := by
  unfold encodeXyn; rw [toNat_append', toNat_append', toNat_append']; omega

/-! ## The fields of an encoded word -/

section
variable (op x y n : Nibble) (kk : Byte) (nnn : Addr12)

@[simp] theorem fieldOp_encodeNnn : fieldOp (encodeNnn op nnn) = op := by
  apply BitVec.eq_of_toNat_eq; rw [toNat_fieldOp, toNat_encodeNnn]; omega
@[simp] theorem fieldNnn_encodeNnn : fieldNnn (encodeNnn op nnn) = nnn := by
  apply BitVec.eq_of_toNat_eq; rw [toNat_fieldNnn, toNat_encodeNnn]; omega
@[simp] theorem fieldOp_encodeXkk : fieldOp (encodeXkk op x kk) = op := by
  apply BitVec.eq_of_toNat_eq; rw [toNat_fieldOp, toNat_encodeXkk]; omega
@[simp] theorem fieldX_encodeXkk : fieldX (encodeXkk op x kk) = x := by
  apply BitVec.eq_of_toNat_eq; rw [toNat_fieldX, toNat_encodeXkk]; omega
@[simp] theorem fieldKk_encodeXkk : fieldKk (encodeXkk op x kk) = kk := by
  apply BitVec.eq_of_toNat_eq; rw [toNat_fieldKk, toNat_encodeXkk]; omega
@[simp] theorem fieldOp_encodeXyn : fieldOp (encodeXyn op x y n) = op := by
  apply BitVec.eq_of_toNat_eq; rw [toNat_fieldOp, toNat_encodeXyn]; omega
@[simp] theorem fieldX_encodeXyn : fieldX (encodeXyn op x y n) = x := by
  apply BitVec.eq_of_toNat_eq; rw [toNat_fieldX, toNat_encodeXyn]; omega
@[simp] theorem fieldY_encodeXyn : fieldY (encodeXyn op x y n) = y := by
  apply BitVec.eq_of_toNat_eq; rw [toNat_fieldY, toNat_encodeXyn]; omega
@[simp] theorem fieldN_encodeXyn : fieldN (encodeXyn op x y n) = n := by
  apply BitVec.eq_of_toNat_eq; rw [toNat_fieldN, toNat_encodeXyn]; omega

end

/-! ## A word rebuilt from its fields -/

theorem encodeNnn_fields (w : Word) : encodeNnn (fieldOp w) (fieldNnn w) = w := by
  apply BitVec.eq_of_toNat_eq; rw [toNat_encodeNnn, toNat_fieldOp, toNat_fieldNnn]; omega

theorem encodeXkk_fields (w : Word) : encodeXkk (fieldOp w) (fieldX w) (fieldKk w) = w := by
  apply BitVec.eq_of_toNat_eq; rw [toNat_encodeXkk, toNat_fieldOp, toNat_fieldX, toNat_fieldKk]; omega

theorem encodeXyn_fields (w : Word) : encodeXyn (fieldOp w) (fieldX w) (fieldY w) (fieldN w) = w := by
  apply BitVec.eq_of_toNat_eq
  rw [toNat_encodeXyn, toNat_fieldOp, toNat_fieldX, toNat_fieldY, toNat_fieldN]; omega

/-! ## The masks of R84 as field tests -/

theorem and_appends {m n : Nat} (a c : BitVec m) (b d : BitVec n) : (a ++ b) &&& (c ++ d) = (a &&& c) ++ (b &&& d) :=
  BitVec.and_append

/-- Mask 0xF000 tests the major opcode. -/
theorem mask_F000 (w : Word) (op : Nibble) : w &&& 0xF000 = encodeNnn op 0 ↔ fieldOp w = op := by
  have e : w &&& 0xF000 = encodeNnn (fieldOp w) 0 := by
    conv_lhs => rw [← encodeNnn_fields w]
    unfold encodeNnn
    rw [show (0xF000 : Word) = (0xF#4 ++ 0x000#12 : BitVec (4 + 12)) by decide, and_appends]
    congr 1
    · exact BitVec.and_allOnes
    · exact BitVec.and_zero
  rw [e]
  exact ⟨fun h => by simpa using congrArg fieldOp h, fun h => by rw [h]⟩

/-- Mask 0xF00F tests the major opcode and nibble 0. -/
theorem mask_F00F (w : Word) (op n : Nibble) :
    w &&& 0xF00F = encodeXyn op 0 0 n ↔ fieldOp w = op ∧ fieldN w = n := by
  have e : w &&& 0xF00F = encodeXyn (fieldOp w) 0 0 (fieldN w) := by
    conv_lhs => rw [← encodeXyn_fields w]
    unfold encodeXyn
    rw [show (0xF00F : Word) = (0xF#4 ++ 0x0#4 ++ 0x0#4 ++ 0xF#4 : BitVec (4 + 4 + 4 + 4)) by decide,
      and_appends, and_appends, and_appends]
    congr 1
    · congr 1
      · congr 1
        · exact BitVec.and_allOnes
        · exact BitVec.and_zero
      · exact BitVec.and_zero
    · exact BitVec.and_allOnes
  rw [e]
  exact ⟨fun h => ⟨by simpa using congrArg fieldOp h, by simpa using congrArg fieldN h⟩, fun h => by rw [h.1, h.2]⟩

/-- Mask 0xF0FF tests the major opcode and the low byte. -/
theorem mask_F0FF (w : Word) (op : Nibble) (kk : Byte) :
    w &&& 0xF0FF = encodeXkk op 0 kk ↔ fieldOp w = op ∧ fieldKk w = kk := by
  have e : w &&& 0xF0FF = encodeXkk (fieldOp w) 0 (fieldKk w) := by
    conv_lhs => rw [← encodeXkk_fields w]
    unfold encodeXkk
    rw [show (0xF0FF : Word) = (0xF#4 ++ 0x0#4 ++ 0xFF#8 : BitVec (4 + 4 + 8)) by decide, and_appends, and_appends]
    congr 1
    · congr 1
      · exact BitVec.and_allOnes
      · exact BitVec.and_zero
    · exact BitVec.and_allOnes
  rw [e]
  exact ⟨fun h => ⟨by simpa using congrArg fieldOp h, by simpa using congrArg fieldKk h⟩, fun h => by rw [h.1, h.2]⟩

/-! ## Bytes (R54) -/

theorem wordOfBytes_highByte_lowByte (w : Word) : wordOfBytes (highByte w) (lowByte w) = w := by
  apply BitVec.eq_of_toNat_eq
  have := w.isLt
  unfold wordOfBytes
  rw [toNat_append']
  simp only [highByte, lowByte, BitVec.extractLsb'_toNat, Nat.shiftRight_eq_div_pow]
  omega

/-- Decoding the two bytes of a word is decoding the word. -/
theorem decodeBytes_of_word (w : Word) : decodeBytes (highByte w) (lowByte w) = decodeWord w := by
  rw [decodeBytes, wordOfBytes_highByte_lowByte]

/-! ## The decoder by major opcode (R85) -/

section
variable {w : Word}

theorem decodeWord_of_op0 (h : fieldOp w = 0x0) : decodeWord w = decodeOp0 w := by
  simp [decodeWord, h]

theorem decodeWord_of_op1 (h : fieldOp w = 0x1) : decodeWord w = .instr (.jp (fieldNnn w)) := by
  simp [decodeWord, h]

theorem decodeWord_of_op2 (h : fieldOp w = 0x2) : decodeWord w = .instr (.call (fieldNnn w)) := by
  simp [decodeWord, h]

theorem decodeWord_of_op3 (h : fieldOp w = 0x3) : decodeWord w = .instr (.seVxKk (fieldX w) (fieldKk w)) := by
  simp [decodeWord, h]

theorem decodeWord_of_op4 (h : fieldOp w = 0x4) : decodeWord w = .instr (.sneVxKk (fieldX w) (fieldKk w)) := by
  simp [decodeWord, h]

theorem decodeWord_of_op5 (h : fieldOp w = 0x5) : decodeWord w = decodeOp5 w := by
  simp [decodeWord, h]

theorem decodeWord_of_op6 (h : fieldOp w = 0x6) : decodeWord w = .instr (.ldVxKk (fieldX w) (fieldKk w)) := by
  simp [decodeWord, h]

theorem decodeWord_of_op7 (h : fieldOp w = 0x7) : decodeWord w = .instr (.addVxKk (fieldX w) (fieldKk w)) := by
  simp [decodeWord, h]

theorem decodeWord_of_op8 (h : fieldOp w = 0x8) : decodeWord w = decodeOp8 w := by
  simp [decodeWord, h]

theorem decodeWord_of_op9 (h : fieldOp w = 0x9) : decodeWord w = decodeOp9 w := by
  simp [decodeWord, h]

theorem decodeWord_of_opA (h : fieldOp w = 0xA) : decodeWord w = .instr (.ldINnn (fieldNnn w)) := by
  simp [decodeWord, h]

theorem decodeWord_of_opB (h : fieldOp w = 0xB) : decodeWord w = .instr (.jpV0 (fieldNnn w)) := by
  simp [decodeWord, h]

theorem decodeWord_of_opC (h : fieldOp w = 0xC) : decodeWord w = .instr (.rndVxKk (fieldX w) (fieldKk w)) := by
  simp [decodeWord, h]

theorem decodeWord_of_opD (h : fieldOp w = 0xD) : decodeWord w = .instr (.drw (fieldX w) (fieldY w) (fieldN w)) := by
  simp [decodeWord, h]

theorem decodeWord_of_opE (h : fieldOp w = 0xE) : decodeWord w = decodeOpE w := by
  simp [decodeWord, h]

theorem decodeWord_of_opF (h : fieldOp w = 0xF) : decodeWord w = decodeOpF w := by
  simp [decodeWord, h]

end

/-! ## Rejection by name (R82) -/

theorem ite_instr_eq_unmatched {c : Prop} [Decidable c] {i : Instr} {d : Decoded} {w : Word} :
    (if c then Decoded.instr i else d) = .unmatched w ↔ ¬ c ∧ d = .unmatched w := by
  by_cases h : c <;> simp [h]

theorem ite_instr_eq_instr {c : Prop} [Decidable c] {i j : Instr} {d : Decoded} :
    (if c then Decoded.instr i else d) = .instr j ↔ (c ∧ i = j) ∨ (¬ c ∧ d = .instr j) := by
  by_cases h : c <;> simp [h]

theorem decodeOp8_unmatched {w w' : Word} (h : decodeOp8 w = .unmatched w') : w' = w := by
  simp only [decodeOp8, ite_instr_eq_unmatched, Decoded.unmatched.injEq] at h
  exact h.2.2.2.2.2.2.2.2.2.symm

theorem decodeOpF_unmatched {w w' : Word} (h : decodeOpF w = .unmatched w') : w' = w := by
  simp only [decodeOpF, ite_instr_eq_unmatched, Decoded.unmatched.injEq] at h
  exact h.2.2.2.2.2.2.2.2.2.symm

theorem decodeOpE_unmatched {w w' : Word} (h : decodeOpE w = .unmatched w') : w' = w := by
  simp only [decodeOpE, ite_instr_eq_unmatched, Decoded.unmatched.injEq] at h
  exact h.2.2.symm

theorem decodeOp0_unmatched {w w' : Word} (h : decodeOp0 w = .unmatched w') : w' = w := by
  simp only [decodeOp0, ite_instr_eq_unmatched, Decoded.unmatched.injEq] at h
  exact h.2.2.symm

theorem decodeOp5_unmatched {w w' : Word} (h : decodeOp5 w = .unmatched w') : w' = w := by
  simp only [decodeOp5, ite_instr_eq_unmatched, Decoded.unmatched.injEq] at h
  exact h.2.symm

theorem decodeOp9_unmatched {w w' : Word} (h : decodeOp9 w = .unmatched w') : w' = w := by
  simp only [decodeOp9, ite_instr_eq_unmatched, Decoded.unmatched.injEq] at h
  exact h.2.symm

/-- The decoder rejects only the word it was given, by name. -/
theorem decodeWord_unmatched {w w' : Word} (h : decodeWord w = .unmatched w') : w' = w := by
  unfold decodeWord at h
  by_cases h0 : fieldOp w = 0x0
  · rw [if_pos h0] at h; exact decodeOp0_unmatched h
  rw [if_neg h0] at h
  simp only [ite_instr_eq_unmatched] at h
  obtain ⟨-, -, -, -, h⟩ := h
  by_cases h5 : fieldOp w = 0x5
  · rw [if_pos h5] at h; exact decodeOp5_unmatched h
  rw [if_neg h5] at h
  simp only [ite_instr_eq_unmatched] at h
  obtain ⟨-, -, h⟩ := h
  by_cases h8 : fieldOp w = 0x8
  · rw [if_pos h8] at h; exact decodeOp8_unmatched h
  rw [if_neg h8] at h
  by_cases h9 : fieldOp w = 0x9
  · rw [if_pos h9] at h; exact decodeOp9_unmatched h
  rw [if_neg h9] at h
  simp only [ite_instr_eq_unmatched] at h
  obtain ⟨-, -, -, -, h⟩ := h
  by_cases hE : fieldOp w = 0xE
  · rw [if_pos hE] at h; exact decodeOpE_unmatched h
  rw [if_neg hE] at h
  exact decodeOpF_unmatched h

end Sys2Proof
end

