-- ==== Sys2Proof/Laws/Memory.lean ====
section
/-! SUPPORT. Memory: a read after a write, and the canonical form kept by every memory operation. -/

namespace Sys2Proof.Machine

/-! ## Reads after writes -/

/-- A write leaves every other byte alone, in canonical form or not. -/
theorem Memory.read_write_of_ne (m : Memory) {a c : Nat} (v : Byte) (h : c ≠ a) :
    (m.write a v).read c = m.read c := by
  induction m with
  | nil => simp only [Memory.write]; split <;> simp [Memory.read, h]
  | cons e m ih =>
    obtain ⟨b, w⟩ := e
    simp only [Memory.write]
    split
    · split <;> simp [Memory.read, h]
    · split
      · next hab => subst hab; split <;> simp [Memory.read, h]
      · simp [Memory.read, ih]

/-- Below the first cell of a canonical list nothing is listed. -/
theorem Memory.read_of_lt {m : Memory} {low a : Nat} (h : Memory.wfFrom low m = true) (ha : a < low) :
    m.read a = Memory.resetByte a := by
  induction m generalizing low with
  | nil => rfl
  | cons e m ih =>
    obtain ⟨b, w⟩ := e
    simp only [Memory.wfFrom, Bool.and_eq_true, decide_eq_true_eq] at h
    have : a ≠ b := by omega
    simp only [Memory.read, this, if_false]
    exact ih h.2 (by omega)

/-- A read of the byte just written gives the value written. -/
theorem Memory.read_write_self {m : Memory} {low : Nat} (h : Memory.wfFrom low m = true) (a : Nat) (v : Byte) :
    (m.write a v).read a = v := by
  induction m generalizing low with
  | nil => simp only [Memory.write]; split <;> simp_all [Memory.read]
  | cons e m ih =>
    obtain ⟨b, w⟩ := e
    have hm := h
    simp only [Memory.wfFrom, Bool.and_eq_true, decide_eq_true_eq] at hm
    simp only [Memory.write]
    split
    · next hab =>
      split
      · next hv =>
        have : a ≠ b := by omega
        simp only [Memory.read, this, if_false, hv]
        exact Memory.read_of_lt hm.2 (by omega)
      · simp [Memory.read]
    · split
      · next hab =>
        subst hab
        split
        · next hv => rw [hv]; exact Memory.read_of_lt hm.2 (by omega)
        · simp [Memory.read]
      · next hab => simp only [Memory.read, hab, if_false]; exact ih hm.2

/-! ## The canonical form -/

theorem Memory.wfFrom_mono {m : Memory} {low low' : Nat} (h : Memory.wfFrom low m = true) (hl : low' ≤ low) :
    Memory.wfFrom low' m = true := by
  cases m with
  | nil => rfl
  | cons e m =>
    simp only [Memory.wfFrom, Bool.and_eq_true, decide_eq_true_eq] at h ⊢
    exact ⟨⟨⟨by omega, h.1.1.2⟩, h.1.2⟩, h.2⟩

theorem Memory.wfFrom_write {m : Memory} {low a : Nat} (v : Byte) (h : Memory.wfFrom low m = true) (hl : low ≤ a)
    (ha : a < Config.memSize) : Memory.wfFrom low (m.write a v) = true := by
  induction m generalizing low with
  | nil => simp only [Memory.write]; split <;> simp_all [Memory.wfFrom]
  | cons e m ih =>
    obtain ⟨b, w⟩ := e
    have hm := h
    simp only [Memory.wfFrom, Bool.and_eq_true, decide_eq_true_eq] at hm
    simp only [Memory.write]
    split
    · split
      · exact h
      · next hab hv =>
        simp only [Memory.wfFrom, Bool.and_eq_true, decide_eq_true_eq, bne_iff_ne, ne_eq]
        exact ⟨⟨⟨hl, ha⟩, hv⟩, ⟨⟨by omega, hm.1.1.2⟩, by simpa using hm.1.2⟩, hm.2⟩
    · split
      · next hab =>
        subst hab
        split
        · exact Memory.wfFrom_mono hm.2 (by omega)
        · next hv =>
          simp only [Memory.wfFrom, Bool.and_eq_true, decide_eq_true_eq, bne_iff_ne, ne_eq]
          exact ⟨⟨⟨hl, ha⟩, hv⟩, hm.2⟩
      · next h1 h2 =>
        simp only [Memory.wfFrom, Bool.and_eq_true, decide_eq_true_eq]
        exact ⟨hm.1, ih hm.2 (by omega)⟩

/-- A write inside the address space keeps the canonical form. -/
theorem Memory.wf_write {m : Memory} {a : Nat} (v : Byte) (h : m.wf = true) (ha : a < Config.memSize) :
    (m.write a v).wf = true := Memory.wfFrom_write v h (Nat.zero_le a) ha

/-- A transfer inside the address space keeps the canonical form. -/
theorem Memory.wf_writeBytes {m : Memory} {a : Nat} (bytes : List Byte) (h : m.wf = true)
    (ha : a + bytes.length ≤ Config.memSize) : (m.writeBytes a bytes).wf = true := by
  induction bytes generalizing m a with
  | nil => exact h
  | cons v vs ih =>
    simp only [List.length_cons] at ha
    exact ih (Memory.wf_write v h (by omega)) (by omega)

/-! ## Transfers -/

/-- A transfer leaves the bytes outside it alone. -/
theorem Memory.read_writeBytes_of_out (m : Memory) {a c : Nat} (bytes : List Byte)
    (h : c < a ∨ a + bytes.length ≤ c) : (m.writeBytes a bytes).read c = m.read c := by
  induction bytes generalizing m a with
  | nil => rfl
  | cons v vs ih =>
    simp only [List.length_cons] at h
    simp only [Memory.writeBytes]
    rw [ih (m.write a v) (by omega), Memory.read_write_of_ne m v (by omega)]

/-- A transfer leaves its k-th byte at a + k. -/
theorem Memory.read_writeBytes {m : Memory} {a k : Nat} (bytes : List Byte) (h : m.wf = true)
    (ha : a + bytes.length ≤ Config.memSize) (hk : k < bytes.length) :
    (m.writeBytes a bytes).read (a + k) = bytes[k] := by
  induction bytes generalizing m a k with
  | nil => simp at hk
  | cons v vs ih =>
    simp only [List.length_cons] at ha hk
    cases k with
    | zero =>
      simp only [Memory.writeBytes, Nat.add_zero, List.getElem_cons_zero]
      rw [Memory.read_writeBytes_of_out _ vs (by omega)]
      exact Memory.read_write_self h a v
    | succ k =>
      have := ih (m := m.write a v) (a := a + 1) (k := k) (Memory.wf_write v h (by omega)) (by omega) (by omega)
      simpa only [Memory.writeBytes, List.getElem_cons_succ, Nat.add_comm 1 k, Nat.add_assoc] using this

/-- A sequence of byte reads has the length asked for. -/
@[simp] theorem Memory.length_readBytes (m : Memory) (a n : Nat) : (m.readBytes a n).length = n := by
  induction n generalizing a with
  | zero => rfl
  | succ n ih => simp [Memory.readBytes, ih]

/-- Its k-th byte is the one at a + k. -/
theorem Memory.getElem_readBytes (m : Memory) (a n k : Nat) (h : k < (m.readBytes a n).length) :
    (m.readBytes a n)[k] = m.read (a + k) := by
  induction n generalizing a k with
  | zero => simp at h
  | succ n ih =>
    cases k with
    | zero => simp [Memory.readBytes]
    | succ k => simp [Memory.readBytes, ih, Nat.add_comm, Nat.add_left_comm]

/-! ## Memory after Reset (R42, R52) -/

/-- Outside the font every byte is 0, whatever the font. -/
theorem State.read_resetWith_of_out (font : Vector Byte 80) (p : UnmatchedPolicy) (n : Nat) {a : Nat}
    (h : a < 0x050 ∨ 0x0A0 ≤ a) : (State.resetWith font p n).mem.read a = 0x00 := by
  have hr : Memory.resetByte a = 0x00 := by
    rcases h with h | h
    · exact if_neg (by simp [Config.fontBase]; omega)
    · unfold Memory.resetByte
      rw [if_pos (by simp [Config.fontBase]; omega), List.getD_eq_default]
      show 80 ≤ _
      simp [Config.fontBase]; omega
  have := Memory.read_writeBytes_of_out [] (a := Config.fontBase) (c := a) font.toList
    (by simp [Config.fontBase]; omega)
  exact this.trans hr

/-- `MEM[0x050 + j] = FONT[j]`. -/
theorem State.read_resetWith_font (font : Vector Byte 80) (p : UnmatchedPolicy) (n : Nat) {j : Nat} (h : j < 80) :
    (State.resetWith font p n).mem.read (0x050 + j) = font[j] := by
  have := Memory.read_writeBytes (m := []) (a := Config.fontBase) (k := j) font.toList rfl
    (by simp [Config.fontBase, Config.memSize]) (by simpa using h)
  simpa [State.resetWith, Config.fontBase] using this

/-- The memory after Reset is in canonical form. -/
theorem State.wf_resetWith (font : Vector Byte 80) (p : UnmatchedPolicy) (n : Nat) :
    (State.resetWith font p n).mem.wf = true :=
  Memory.wf_writeBytes font.toList rfl (by simp [Config.fontBase, Config.memSize])

end Sys2Proof.Machine
end

