-- ==== Sys2Proof/Laws/Display.lean ====
section
/-! SUPPORT. The compositor: every pixel after a draw is the pixel before XOR the sprite bit over it, and the collision
flag says whether a set bit met a lit pixel (spec/45_display.md R151 to R156). -/

namespace Sys2Proof.Machine

theorem getLsbD_one_shiftLeft (x z : Nat) (hz : z < 64) : (1#64 <<< x).getLsbD z = decide (z = x) := by
  rw [BitVec.getLsbD_shiftLeft, BitVec.getLsbD_one]
  by_cases h : z = x
  · subst h; simp [hz]
  · by_cases h' : z < x
    · simp [h, h']
    · have : z - x ≠ 0 := by omega
      simp [h, this]

theorem pixel_invertPixel (fb : Framebuffer) (x x' : Fin 64) (y y' : Fin 32) :
    pixel (invertPixel fb x y) x' y' = (pixel fb x' y' ^^ (decide (x' = x) && decide (y' = y))) := by
  unfold pixel invertPixel
  by_cases h : y' = y
  · subst h
    simp only [Fin.getElem_fin, Vector.getElem_set_self, BitVec.getLsbD_xor,
      getLsbD_one_shiftLeft _ _ x'.isLt, decide_true, Bool.and_true, Fin.ext_iff]
  · have : y.val ≠ y'.val := fun e => h (Fin.ext e.symm)
    simp [h, Vector.getElem_set_ne, this]

theorem Canvas.pixel_plot (c : Canvas) (bit : Bool) (x x' : Fin 64) (y y' : Fin 32) :
    pixel (c.plot bit x y).fb x' y' = (pixel c.fb x' y' ^^ (bit && decide (x' = x) && decide (y' = y))) := by
  cases bit <;> simp [Canvas.plot, pixel_invertPixel]

theorem Canvas.collision_plot (c : Canvas) (bit : Bool) (x : Fin 64) (y : Fin 32) :
    (c.plot bit x y).collision = (c.collision || (bit && pixel c.fb x y)) := by
  cases bit <;> simp [Canvas.plot]

/-- How far column x lies to the right of column ox, modulo 64. -/
def columnsRight (ox : Nat) (x : Fin 64) : Nat := (x.val + 64 - ox % 64) % 64

/-- How far row y lies below row oy, modulo 32. -/
def rowsBelow (oy : Nat) (y : Fin 32) : Nat := (y.val + 32 - oy % 32) % 32

theorem eq_columnOf_iff (ox col : Nat) (x : Fin 64) (hc : col < 64) :
    x = columnOf (ox + col) ↔ columnsRight ox x = col := by
  have := x.isLt
  rw [Fin.ext_iff]
  simp only [columnsRight, columnOf]
  omega

theorem eq_rowOf_iff (oy : Nat) (y : Fin 32) : y = rowOf oy ↔ rowsBelow oy y = 0 := by
  have := y.isLt
  rw [Fin.ext_iff]
  simp only [rowsBelow, rowOf]
  omega

/-- The set bits of `n` columns of a row from column `col` on. -/
def columnsCover (row : Byte) (ox col n : Nat) (x : Fin 64) : Bool :=
  decide (col ≤ columnsRight ox x) && decide (columnsRight ox x < col + n) &&
    row.getLsbD (7 - columnsRight ox x)

theorem columnsCover_succ (row : Byte) (ox col n : Nat) (x : Fin 64) (hc : col < 64) :
    columnsCover row ox col (n + 1) x =
      (columnsCover row ox (col + 1) n x || (row.getLsbD (7 - col) && decide (x = columnOf (ox + col)))) := by
  unfold columnsCover
  by_cases h : x = columnOf (ox + col)
  · have e := (eq_columnOf_iff ox col x hc).1 h
    simp [h.symm, e]
  · have e : columnsRight ox x ≠ col := fun e => h ((eq_columnOf_iff ox col x hc).2 e)
    have e1 : (col ≤ columnsRight ox x) ↔ (col + 1 ≤ columnsRight ox x) := by omega
    have e2 : (columnsRight ox x < col + (n + 1)) ↔ (columnsRight ox x < col + 1 + n) := by omega
    simp [h, e1, e2]

theorem columnsCover_disjoint (row : Byte) (ox col n : Nat) (hc : col < 64) :
    columnsCover row ox (col + 1) n (columnOf (ox + col)) = false := by
  have := (eq_columnOf_iff ox col _ hc).1 rfl
  simp [columnsCover, this]

/-- What drawing columns does to every pixel (R151, R154). -/
theorem Canvas.pixel_plotColumns (row : Byte) (ox : Nat) (y : Fin 32) (c : Canvas) (col n : Nat)
    (h : col + n ≤ 64) (x' : Fin 64) (y' : Fin 32) :
    pixel (Canvas.plotColumns row ox y c col n).fb x' y' =
      (pixel c.fb x' y' ^^ (columnsCover row ox col n x' && decide (y' = y))) := by
  induction n generalizing c col with
  | zero =>
    have : columnsCover row ox col 0 x' = false := by
      simp only [columnsCover, Nat.add_zero, Bool.and_eq_false_iff, decide_eq_false_iff_not]; omega
    simp [Canvas.plotColumns, this]
  | succ n ih =>
    rw [Canvas.plotColumns, ih _ _ (by omega), Canvas.pixel_plot, columnsCover_succ _ _ _ _ _ (by omega)]
    by_cases hx : x' = columnOf (ox + col)
    · rw [hx, columnsCover_disjoint _ _ _ _ (by omega)]
      simp
    · simp [hx]

/-- Which collisions drawing columns reports (R155). -/
theorem Canvas.collision_plotColumns (row : Byte) (ox : Nat) (y : Fin 32) (c : Canvas) (col n : Nat)
    (h : col + n ≤ 64) :
    (Canvas.plotColumns row ox y c col n).collision = true ↔
      c.collision = true ∨ ∃ x, columnsCover row ox col n x = true ∧ pixel c.fb x y = true := by
  induction n generalizing c col with
  | zero =>
    have none (x : Fin 64) : columnsCover row ox col 0 x = false := by
      simp only [columnsCover, Nat.add_zero, Bool.and_eq_false_iff, decide_eq_false_iff_not]; omega
    simp [Canvas.plotColumns, none]
  | succ n ih =>
    rw [Canvas.plotColumns, ih _ _ (by omega), Canvas.collision_plot]
    constructor
    · rintro (hc | ⟨x, hx, hp⟩)
      · rcases Bool.or_eq_true _ _ ▸ hc with hc | hc
        · exact .inl hc
        · simp only [Bool.and_eq_true] at hc
          exact .inr ⟨columnOf (ox + col), by
            rw [columnsCover_succ _ _ _ _ _ (by omega)]; simp [hc.1], hc.2⟩
      · refine .inr ⟨x, ?_, ?_⟩
        · rw [columnsCover_succ _ _ _ _ _ (by omega), hx]; rfl
        · have hne : x ≠ columnOf (ox + col) := by
            intro e
            rw [e, columnsCover_disjoint _ _ _ _ (by omega)] at hx
            simp at hx
          simpa [Canvas.pixel_plot, hne] using hp
    · rintro (hc | ⟨x, hx, hp⟩)
      · exact .inl (by simp [hc])
      · rw [columnsCover_succ _ _ _ _ _ (by omega)] at hx
        by_cases e : x = columnOf (ox + col)
        · rw [e, columnsCover_disjoint _ _ _ _ (by omega)] at hx
          rw [e] at hp
          have : row.getLsbD (7 - col) = true := by simpa using hx
          exact .inl (by simp [this, hp])
        · exact .inr ⟨x, by simpa [e] using hx, by simpa [Canvas.pixel_plot, e] using hp⟩

/-- The set bits of the rows of a sprite whose first row is at `oy`. -/
def rowsCover (ox oy : Nat) (rows : List Byte) (x : Fin 64) (y : Fin 32) : Bool :=
  decide (rowsBelow oy y < rows.length) && columnsCover (rows.getD (rowsBelow oy y) 0x00) ox 0 8 x

theorem rowsCover_cons (ox oy : Nat) (row : Byte) (rows : List Byte) (x : Fin 64) (y : Fin 32)
    (h : rows.length < 32) :
    rowsCover ox oy (row :: rows) x y =
      (rowsCover ox (oy + 1) rows x y || (columnsCover row ox 0 8 x && decide (y = rowOf oy))) := by
  have hy := y.isLt
  unfold rowsCover
  by_cases e : y = rowOf oy
  · have e0 := (eq_rowOf_iff oy y).1 e
    have e1 : rowsBelow (oy + 1) y = 31 := by simp only [rowsBelow] at e0 ⊢; omega
    have : ¬ 31 < rows.length := by omega
    simp [e.symm, e0, e1, this]
  · have e0 : rowsBelow oy y ≠ 0 := fun e' => e ((eq_rowOf_iff oy y).2 e')
    have e1 : rowsBelow oy y = rowsBelow (oy + 1) y + 1 := by simp only [rowsBelow] at e0 ⊢; omega
    simp [e, e1]

theorem rowsCover_disjoint (ox oy : Nat) (rows : List Byte) (x : Fin 64) (h : rows.length < 32) :
    rowsCover ox (oy + 1) rows x (rowOf oy) = false := by
  have e0 := (eq_rowOf_iff oy _).1 rfl
  have e1 : rowsBelow (oy + 1) (rowOf oy) = 31 := by
    have := (rowOf oy).isLt
    simp only [rowsBelow] at e0 ⊢; omega
  simp only [rowsCover, e1, Bool.and_eq_false_iff, decide_eq_false_iff_not]
  left; omega

theorem Canvas.pixel_plotRows (ox : Nat) (c : Canvas) (oy : Nat) (rows : List Byte) (h : rows.length ≤ 32)
    (x' : Fin 64) (y' : Fin 32) :
    pixel (Canvas.plotRows ox c oy rows).fb x' y' = (pixel c.fb x' y' ^^ rowsCover ox oy rows x' y') := by
  induction rows generalizing c oy with
  | nil => simp [Canvas.plotRows, rowsCover]
  | cons row rows ih =>
    simp only [List.length_cons] at h
    rw [Canvas.plotRows, ih _ _ (by omega), Canvas.pixel_plotColumns _ _ _ _ _ _ (by omega),
      rowsCover_cons _ _ _ _ _ _ (by omega)]
    by_cases e : y' = rowOf oy
    · rw [e, rowsCover_disjoint _ _ _ _ (by omega)]
      simp
    · simp [e]

theorem Canvas.collision_plotRows (ox : Nat) (c : Canvas) (oy : Nat) (rows : List Byte) (h : rows.length ≤ 32) :
    (Canvas.plotRows ox c oy rows).collision = true ↔
      c.collision = true ∨ ∃ x y, rowsCover ox oy rows x y = true ∧ pixel c.fb x y = true := by
  induction rows generalizing c oy with
  | nil => simp [Canvas.plotRows, rowsCover]
  | cons row rows ih =>
    simp only [List.length_cons] at h
    rw [Canvas.plotRows, ih _ _ (by omega), Canvas.collision_plotColumns _ _ _ _ _ _ (by omega)]
    constructor
    · rintro ((hc | ⟨x, hx, hp⟩) | ⟨x, y, hx, hp⟩)
      · exact .inl hc
      · exact .inr ⟨x, _, by rw [rowsCover_cons _ _ _ _ _ _ (by omega), hx]; simp, hp⟩
      · have hne : y ≠ rowOf oy := by
          intro e
          rw [e, rowsCover_disjoint _ _ _ _ (by omega)] at hx
          simp at hx
        refine .inr ⟨x, y, by rw [rowsCover_cons _ _ _ _ _ _ (by omega), hx]; rfl, ?_⟩
        simpa [Canvas.pixel_plotColumns, hne] using hp
    · rintro (hc | ⟨x, y, hx, hp⟩)
      · exact .inl (.inl hc)
      · rw [rowsCover_cons _ _ _ _ _ _ (by omega)] at hx
        by_cases e : y = rowOf oy
        · rw [e, rowsCover_disjoint _ _ _ _ (by omega)] at hx
          rw [e] at hp
          exact .inl (.inr ⟨x, by simpa using hx, hp⟩)
        · exact .inr ⟨x, y, by simpa [e] using hx, by simpa [Canvas.pixel_plotColumns, e] using hp⟩

theorem rowsCover_eq_spriteCovers (ox oy : Nat) (rows : List Byte) (x : Fin 64) (y : Fin 32) :
    rowsCover (ox % 64) (oy % 32) rows x y = spriteCovers ox oy rows x y := by
  simp only [rowsCover, columnsCover, columnsRight, rowsBelow, spriteCovers, Nat.mod_mod, Nat.zero_le,
    decide_true, Bool.true_and, Nat.zero_add]
  cases decide ((x.val + 64 - ox % 64) % 64 < 8) <;> simp

/-- Everything a draw does to the framebuffer: true XOR on every pixel (R151, R154, R158). -/
theorem pixel_drawSprite (fb : Framebuffer) (ox oy : Nat) (rows : List Byte) (h : rows.length ≤ 32)
    (x : Fin 64) (y : Fin 32) :
    pixel (drawSprite fb ox oy rows).fb x y = (pixel fb x y ^^ spriteCovers ox oy rows x y) := by
  rw [drawSprite, Canvas.pixel_plotRows _ _ _ _ h, rowsCover_eq_spriteCovers]

/-- The collision flag (R155): a set bit of the sprite lies on a lit pixel. -/
theorem collision_drawSprite (fb : Framebuffer) (ox oy : Nat) (rows : List Byte) (h : rows.length ≤ 32) :
    (drawSprite fb ox oy rows).collision = true ↔
      ∃ x y, spriteCovers ox oy rows x y = true ∧ pixel fb x y = true := by
  rw [drawSprite, Canvas.collision_plotRows _ _ _ _ h]
  simp [rowsCover_eq_spriteCovers]

/-- The sprite of a DRW has n rows, fewer than 32. -/
theorem State.length_spriteAtI (s : State) (n : Nibble) : (s.spriteAtI n).length = n.toNat ∧ n.toNat < 32 := by
  have : n.toNat < 16 := n.isLt
  exact ⟨by simp [State.spriteAtI], by omega⟩

end Sys2Proof.Machine
end

