-- ==== Sys2Proof/Laws/State.lean ====
section
/-! SUPPORT. One lemma per field of State and update: what each named operation leaves in each field. -/

namespace Sys2Proof.Machine

/-! ## State.setReg -/

@[simp] theorem State.setReg_v (s : State) (r : Nibble) (b : Byte) : (s.setReg r b).v = s.v.set r.toNat b r.isLt := rfl
@[simp] theorem State.setReg_i (s : State) (r : Nibble) (b : Byte) : (s.setReg r b).i = s.i := rfl
@[simp] theorem State.setReg_pc (s : State) (r : Nibble) (b : Byte) : (s.setReg r b).pc = s.pc := rfl
@[simp] theorem State.setReg_sp (s : State) (r : Nibble) (b : Byte) : (s.setReg r b).sp = s.sp := rfl
@[simp] theorem State.setReg_stk (s : State) (r : Nibble) (b : Byte) : (s.setReg r b).stk = s.stk := rfl
@[simp] theorem State.setReg_dt (s : State) (r : Nibble) (b : Byte) : (s.setReg r b).dt = s.dt := rfl
@[simp] theorem State.setReg_st (s : State) (r : Nibble) (b : Byte) : (s.setReg r b).st = s.st := rfl
@[simp] theorem State.setReg_mem (s : State) (r : Nibble) (b : Byte) : (s.setReg r b).mem = s.mem := rfl
@[simp] theorem State.setReg_fb (s : State) (r : Nibble) (b : Byte) : (s.setReg r b).fb = s.fb := rfl
@[simp] theorem State.setReg_fault (s : State) (r : Nibble) (b : Byte) : (s.setReg r b).fault = s.fault := rfl
@[simp] theorem State.setReg_keys (s : State) (r : Nibble) (b : Byte) : (s.setReg r b).keys = s.keys := rfl
@[simp] theorem State.setReg_policy (s : State) (r : Nibble) (b : Byte) : (s.setReg r b).policy = s.policy := rfl
@[simp] theorem State.setReg_font (s : State) (r : Nibble) (b : Byte) : (s.setReg r b).font = s.font := rfl
@[simp] theorem State.setReg_rndDraws (s : State) (r : Nibble) (b : Byte) : (s.setReg r b).rndDraws = s.rndDraws := rfl

/-! ## State.setSlot -/

@[simp] theorem State.setSlot_v (s : State) (k : Nibble) (w : Word) : (s.setSlot k w).v = s.v := rfl
@[simp] theorem State.setSlot_i (s : State) (k : Nibble) (w : Word) : (s.setSlot k w).i = s.i := rfl
@[simp] theorem State.setSlot_pc (s : State) (k : Nibble) (w : Word) : (s.setSlot k w).pc = s.pc := rfl
@[simp] theorem State.setSlot_sp (s : State) (k : Nibble) (w : Word) : (s.setSlot k w).sp = s.sp := rfl
@[simp] theorem State.setSlot_stk (s : State) (k : Nibble) (w : Word) : (s.setSlot k w).stk = s.stk.set k.toNat w k.isLt := rfl
@[simp] theorem State.setSlot_dt (s : State) (k : Nibble) (w : Word) : (s.setSlot k w).dt = s.dt := rfl
@[simp] theorem State.setSlot_st (s : State) (k : Nibble) (w : Word) : (s.setSlot k w).st = s.st := rfl
@[simp] theorem State.setSlot_mem (s : State) (k : Nibble) (w : Word) : (s.setSlot k w).mem = s.mem := rfl
@[simp] theorem State.setSlot_fb (s : State) (k : Nibble) (w : Word) : (s.setSlot k w).fb = s.fb := rfl
@[simp] theorem State.setSlot_fault (s : State) (k : Nibble) (w : Word) : (s.setSlot k w).fault = s.fault := rfl
@[simp] theorem State.setSlot_keys (s : State) (k : Nibble) (w : Word) : (s.setSlot k w).keys = s.keys := rfl
@[simp] theorem State.setSlot_policy (s : State) (k : Nibble) (w : Word) : (s.setSlot k w).policy = s.policy := rfl
@[simp] theorem State.setSlot_font (s : State) (k : Nibble) (w : Word) : (s.setSlot k w).font = s.font := rfl
@[simp] theorem State.setSlot_rndDraws (s : State) (k : Nibble) (w : Word) : (s.setSlot k w).rndDraws = s.rndDraws := rfl

/-! ## State.advance -/

@[simp] theorem State.advance_v (s : State) (n : Word) : (s.advance n).v = s.v := rfl
@[simp] theorem State.advance_i (s : State) (n : Word) : (s.advance n).i = s.i := rfl
@[simp] theorem State.advance_pc (s : State) (n : Word) : (s.advance n).pc = s.pc + n := rfl
@[simp] theorem State.advance_sp (s : State) (n : Word) : (s.advance n).sp = s.sp := rfl
@[simp] theorem State.advance_stk (s : State) (n : Word) : (s.advance n).stk = s.stk := rfl
@[simp] theorem State.advance_dt (s : State) (n : Word) : (s.advance n).dt = s.dt := rfl
@[simp] theorem State.advance_st (s : State) (n : Word) : (s.advance n).st = s.st := rfl
@[simp] theorem State.advance_mem (s : State) (n : Word) : (s.advance n).mem = s.mem := rfl
@[simp] theorem State.advance_fb (s : State) (n : Word) : (s.advance n).fb = s.fb := rfl
@[simp] theorem State.advance_fault (s : State) (n : Word) : (s.advance n).fault = s.fault := rfl
@[simp] theorem State.advance_keys (s : State) (n : Word) : (s.advance n).keys = s.keys := rfl
@[simp] theorem State.advance_policy (s : State) (n : Word) : (s.advance n).policy = s.policy := rfl
@[simp] theorem State.advance_font (s : State) (n : Word) : (s.advance n).font = s.font := rfl
@[simp] theorem State.advance_rndDraws (s : State) (n : Word) : (s.advance n).rndDraws = s.rndDraws := rfl

/-! ## State.storeAtI -/

@[simp] theorem State.storeAtI_v (s : State) (bytes : List Byte) : (s.storeAtI bytes).v = s.v := rfl
@[simp] theorem State.storeAtI_i (s : State) (bytes : List Byte) : (s.storeAtI bytes).i = s.i := rfl
@[simp] theorem State.storeAtI_pc (s : State) (bytes : List Byte) : (s.storeAtI bytes).pc = s.pc := rfl
@[simp] theorem State.storeAtI_sp (s : State) (bytes : List Byte) : (s.storeAtI bytes).sp = s.sp := rfl
@[simp] theorem State.storeAtI_stk (s : State) (bytes : List Byte) : (s.storeAtI bytes).stk = s.stk := rfl
@[simp] theorem State.storeAtI_dt (s : State) (bytes : List Byte) : (s.storeAtI bytes).dt = s.dt := rfl
@[simp] theorem State.storeAtI_st (s : State) (bytes : List Byte) : (s.storeAtI bytes).st = s.st := rfl
@[simp] theorem State.storeAtI_mem (s : State) (bytes : List Byte) : (s.storeAtI bytes).mem = s.mem.writeBytes s.i.toNat bytes := rfl
@[simp] theorem State.storeAtI_fb (s : State) (bytes : List Byte) : (s.storeAtI bytes).fb = s.fb := rfl
@[simp] theorem State.storeAtI_fault (s : State) (bytes : List Byte) : (s.storeAtI bytes).fault = s.fault := rfl
@[simp] theorem State.storeAtI_keys (s : State) (bytes : List Byte) : (s.storeAtI bytes).keys = s.keys := rfl
@[simp] theorem State.storeAtI_policy (s : State) (bytes : List Byte) : (s.storeAtI bytes).policy = s.policy := rfl
@[simp] theorem State.storeAtI_font (s : State) (bytes : List Byte) : (s.storeAtI bytes).font = s.font := rfl
@[simp] theorem State.storeAtI_rndDraws (s : State) (bytes : List Byte) : (s.storeAtI bytes).rndDraws = s.rndDraws := rfl

/-! ## State.loadAtI -/

@[simp] theorem State.loadAtI_v (s : State) (x : Nibble) : (s.loadAtI x).v = s.regsFromMemory x := rfl
@[simp] theorem State.loadAtI_i (s : State) (x : Nibble) : (s.loadAtI x).i = s.i := rfl
@[simp] theorem State.loadAtI_pc (s : State) (x : Nibble) : (s.loadAtI x).pc = s.pc := rfl
@[simp] theorem State.loadAtI_sp (s : State) (x : Nibble) : (s.loadAtI x).sp = s.sp := rfl
@[simp] theorem State.loadAtI_stk (s : State) (x : Nibble) : (s.loadAtI x).stk = s.stk := rfl
@[simp] theorem State.loadAtI_dt (s : State) (x : Nibble) : (s.loadAtI x).dt = s.dt := rfl
@[simp] theorem State.loadAtI_st (s : State) (x : Nibble) : (s.loadAtI x).st = s.st := rfl
@[simp] theorem State.loadAtI_mem (s : State) (x : Nibble) : (s.loadAtI x).mem = s.mem := rfl
@[simp] theorem State.loadAtI_fb (s : State) (x : Nibble) : (s.loadAtI x).fb = s.fb := rfl
@[simp] theorem State.loadAtI_fault (s : State) (x : Nibble) : (s.loadAtI x).fault = s.fault := rfl
@[simp] theorem State.loadAtI_keys (s : State) (x : Nibble) : (s.loadAtI x).keys = s.keys := rfl
@[simp] theorem State.loadAtI_policy (s : State) (x : Nibble) : (s.loadAtI x).policy = s.policy := rfl
@[simp] theorem State.loadAtI_font (s : State) (x : Nibble) : (s.loadAtI x).font = s.font := rfl
@[simp] theorem State.loadAtI_rndDraws (s : State) (x : Nibble) : (s.loadAtI x).rndDraws = s.rndDraws := rfl

/-! ## State.setScreen -/

@[simp] theorem State.setScreen_v (s : State) (fb : Framebuffer) : (s.setScreen fb).v = s.v := rfl
@[simp] theorem State.setScreen_i (s : State) (fb : Framebuffer) : (s.setScreen fb).i = s.i := rfl
@[simp] theorem State.setScreen_pc (s : State) (fb : Framebuffer) : (s.setScreen fb).pc = s.pc := rfl
@[simp] theorem State.setScreen_sp (s : State) (fb : Framebuffer) : (s.setScreen fb).sp = s.sp := rfl
@[simp] theorem State.setScreen_stk (s : State) (fb : Framebuffer) : (s.setScreen fb).stk = s.stk := rfl
@[simp] theorem State.setScreen_dt (s : State) (fb : Framebuffer) : (s.setScreen fb).dt = s.dt := rfl
@[simp] theorem State.setScreen_st (s : State) (fb : Framebuffer) : (s.setScreen fb).st = s.st := rfl
@[simp] theorem State.setScreen_mem (s : State) (fb : Framebuffer) : (s.setScreen fb).mem = s.mem := rfl
@[simp] theorem State.setScreen_fb (s : State) (fb : Framebuffer) : (s.setScreen fb).fb = fb := rfl
@[simp] theorem State.setScreen_fault (s : State) (fb : Framebuffer) : (s.setScreen fb).fault = s.fault := rfl
@[simp] theorem State.setScreen_keys (s : State) (fb : Framebuffer) : (s.setScreen fb).keys = s.keys := rfl
@[simp] theorem State.setScreen_policy (s : State) (fb : Framebuffer) : (s.setScreen fb).policy = s.policy := rfl
@[simp] theorem State.setScreen_font (s : State) (fb : Framebuffer) : (s.setScreen fb).font = s.font := rfl
@[simp] theorem State.setScreen_rndDraws (s : State) (fb : Framebuffer) : (s.setScreen fb).rndDraws = s.rndDraws := rfl

/-! ## takeFault -/

@[simp] theorem takeFault_v (s : State) (cause : FaultCause) (info : Nat) : (takeFault cause info s).v = s.v := rfl
@[simp] theorem takeFault_i (s : State) (cause : FaultCause) (info : Nat) : (takeFault cause info s).i = s.i := rfl
@[simp] theorem takeFault_pc (s : State) (cause : FaultCause) (info : Nat) : (takeFault cause info s).pc = s.pc := rfl
@[simp] theorem takeFault_sp (s : State) (cause : FaultCause) (info : Nat) : (takeFault cause info s).sp = s.sp := rfl
@[simp] theorem takeFault_stk (s : State) (cause : FaultCause) (info : Nat) : (takeFault cause info s).stk = s.stk := rfl
@[simp] theorem takeFault_dt (s : State) (cause : FaultCause) (info : Nat) : (takeFault cause info s).dt = s.dt := rfl
@[simp] theorem takeFault_st (s : State) (cause : FaultCause) (info : Nat) : (takeFault cause info s).st = s.st := rfl
@[simp] theorem takeFault_mem (s : State) (cause : FaultCause) (info : Nat) : (takeFault cause info s).mem = s.mem := rfl
@[simp] theorem takeFault_fb (s : State) (cause : FaultCause) (info : Nat) : (takeFault cause info s).fb = s.fb := rfl
@[simp] theorem takeFault_fault (s : State) (cause : FaultCause) (info : Nat) : (takeFault cause info s).fault = some ⟨cause, info⟩ := rfl
@[simp] theorem takeFault_keys (s : State) (cause : FaultCause) (info : Nat) : (takeFault cause info s).keys = s.keys := rfl
@[simp] theorem takeFault_policy (s : State) (cause : FaultCause) (info : Nat) : (takeFault cause info s).policy = s.policy := rfl
@[simp] theorem takeFault_font (s : State) (cause : FaultCause) (info : Nat) : (takeFault cause info s).font = s.font := rfl
@[simp] theorem takeFault_rndDraws (s : State) (cause : FaultCause) (info : Nat) : (takeFault cause info s).rndDraws = s.rndDraws := rfl

/-! ## clearFault -/

@[simp] theorem clearFault_v (s : State) : (clearFault s).v = s.v := rfl
@[simp] theorem clearFault_i (s : State) : (clearFault s).i = s.i := rfl
@[simp] theorem clearFault_pc (s : State) : (clearFault s).pc = s.pc := rfl
@[simp] theorem clearFault_sp (s : State) : (clearFault s).sp = s.sp := rfl
@[simp] theorem clearFault_stk (s : State) : (clearFault s).stk = s.stk := rfl
@[simp] theorem clearFault_dt (s : State) : (clearFault s).dt = s.dt := rfl
@[simp] theorem clearFault_st (s : State) : (clearFault s).st = s.st := rfl
@[simp] theorem clearFault_mem (s : State) : (clearFault s).mem = s.mem := rfl
@[simp] theorem clearFault_fb (s : State) : (clearFault s).fb = s.fb := rfl
@[simp] theorem clearFault_fault (s : State) : (clearFault s).fault = none := rfl
@[simp] theorem clearFault_keys (s : State) : (clearFault s).keys = s.keys := rfl
@[simp] theorem clearFault_policy (s : State) : (clearFault s).policy = s.policy := rfl
@[simp] theorem clearFault_font (s : State) : (clearFault s).font = s.font := rfl
@[simp] theorem clearFault_rndDraws (s : State) : (clearFault s).rndDraws = s.rndDraws := rfl

/-! ## tick -/

@[simp] theorem tick_v (s : State) : (tick s).v = s.v := rfl
@[simp] theorem tick_i (s : State) : (tick s).i = s.i := rfl
@[simp] theorem tick_pc (s : State) : (tick s).pc = s.pc := rfl
@[simp] theorem tick_sp (s : State) : (tick s).sp = s.sp := rfl
@[simp] theorem tick_stk (s : State) : (tick s).stk = s.stk := rfl
@[simp] theorem tick_dt (s : State) : (tick s).dt = countDown s.dt := rfl
@[simp] theorem tick_st (s : State) : (tick s).st = countDown s.st := rfl
@[simp] theorem tick_mem (s : State) : (tick s).mem = s.mem := rfl
@[simp] theorem tick_fb (s : State) : (tick s).fb = s.fb := rfl
@[simp] theorem tick_fault (s : State) : (tick s).fault = s.fault := rfl
@[simp] theorem tick_keys (s : State) : (tick s).keys = s.keys := rfl
@[simp] theorem tick_policy (s : State) : (tick s).policy = s.policy := rfl
@[simp] theorem tick_font (s : State) : (tick s).font = s.font := rfl
@[simp] theorem tick_rndDraws (s : State) : (tick s).rndDraws = s.rndDraws := rfl

/-! ## setPressed -/

@[simp] theorem setPressed_v (s : State) (k : Nibble) (p : Bool) : (setPressed k p s).v = s.v := rfl
@[simp] theorem setPressed_i (s : State) (k : Nibble) (p : Bool) : (setPressed k p s).i = s.i := rfl
@[simp] theorem setPressed_pc (s : State) (k : Nibble) (p : Bool) : (setPressed k p s).pc = s.pc := rfl
@[simp] theorem setPressed_sp (s : State) (k : Nibble) (p : Bool) : (setPressed k p s).sp = s.sp := rfl
@[simp] theorem setPressed_stk (s : State) (k : Nibble) (p : Bool) : (setPressed k p s).stk = s.stk := rfl
@[simp] theorem setPressed_dt (s : State) (k : Nibble) (p : Bool) : (setPressed k p s).dt = s.dt := rfl
@[simp] theorem setPressed_st (s : State) (k : Nibble) (p : Bool) : (setPressed k p s).st = s.st := rfl
@[simp] theorem setPressed_mem (s : State) (k : Nibble) (p : Bool) : (setPressed k p s).mem = s.mem := rfl
@[simp] theorem setPressed_fb (s : State) (k : Nibble) (p : Bool) : (setPressed k p s).fb = s.fb := rfl
@[simp] theorem setPressed_fault (s : State) (k : Nibble) (p : Bool) : (setPressed k p s).fault = s.fault := rfl
@[simp] theorem setPressed_keys (s : State) (k : Nibble) (p : Bool) : (setPressed k p s).keys = s.keys.set k.toNat p k.isLt := rfl
@[simp] theorem setPressed_policy (s : State) (k : Nibble) (p : Bool) : (setPressed k p s).policy = s.policy := rfl
@[simp] theorem setPressed_font (s : State) (k : Nibble) (p : Bool) : (setPressed k p s).font = s.font := rfl
@[simp] theorem setPressed_rndDraws (s : State) (k : Nibble) (p : Bool) : (setPressed k p s).rndDraws = s.rndDraws := rfl

/-! ## State.resetWith and resetEvent -/

@[simp] theorem State.resetWith_v (font : Vector Byte 80) (p : UnmatchedPolicy) (n : Nat) :
    (State.resetWith font p n).v = State.reset.v := rfl
@[simp] theorem State.resetWith_i (font : Vector Byte 80) (p : UnmatchedPolicy) (n : Nat) :
    (State.resetWith font p n).i = State.reset.i := rfl
@[simp] theorem State.resetWith_pc (font : Vector Byte 80) (p : UnmatchedPolicy) (n : Nat) :
    (State.resetWith font p n).pc = State.reset.pc := rfl
@[simp] theorem State.resetWith_sp (font : Vector Byte 80) (p : UnmatchedPolicy) (n : Nat) :
    (State.resetWith font p n).sp = State.reset.sp := rfl
@[simp] theorem State.resetWith_stk (font : Vector Byte 80) (p : UnmatchedPolicy) (n : Nat) :
    (State.resetWith font p n).stk = State.reset.stk := rfl
@[simp] theorem State.resetWith_dt (font : Vector Byte 80) (p : UnmatchedPolicy) (n : Nat) :
    (State.resetWith font p n).dt = State.reset.dt := rfl
@[simp] theorem State.resetWith_st (font : Vector Byte 80) (p : UnmatchedPolicy) (n : Nat) :
    (State.resetWith font p n).st = State.reset.st := rfl
@[simp] theorem State.resetWith_mem (font : Vector Byte 80) (p : UnmatchedPolicy) (n : Nat) :
    (State.resetWith font p n).mem = Memory.writeBytes [] Config.fontBase font.toList := rfl
@[simp] theorem State.resetWith_fb (font : Vector Byte 80) (p : UnmatchedPolicy) (n : Nat) :
    (State.resetWith font p n).fb = State.reset.fb := rfl
@[simp] theorem State.resetWith_fault (font : Vector Byte 80) (p : UnmatchedPolicy) (n : Nat) :
    (State.resetWith font p n).fault = State.reset.fault := rfl
@[simp] theorem State.resetWith_keys (font : Vector Byte 80) (p : UnmatchedPolicy) (n : Nat) :
    (State.resetWith font p n).keys = State.reset.keys := rfl
@[simp] theorem State.resetWith_policy (font : Vector Byte 80) (p : UnmatchedPolicy) (n : Nat) :
    (State.resetWith font p n).policy = p := rfl
@[simp] theorem State.resetWith_font (font : Vector Byte 80) (p : UnmatchedPolicy) (n : Nat) :
    (State.resetWith font p n).font = font := rfl
@[simp] theorem State.resetWith_rndDraws (font : Vector Byte 80) (p : UnmatchedPolicy) (n : Nat) :
    (State.resetWith font p n).rndDraws = n := rfl

@[simp] theorem resetEvent_v (s : State) : (resetEvent s).v = State.reset.v := rfl
@[simp] theorem resetEvent_i (s : State) : (resetEvent s).i = State.reset.i := rfl
@[simp] theorem resetEvent_pc (s : State) : (resetEvent s).pc = State.reset.pc := rfl
@[simp] theorem resetEvent_sp (s : State) : (resetEvent s).sp = State.reset.sp := rfl
@[simp] theorem resetEvent_stk (s : State) : (resetEvent s).stk = State.reset.stk := rfl
@[simp] theorem resetEvent_dt (s : State) : (resetEvent s).dt = State.reset.dt := rfl
@[simp] theorem resetEvent_st (s : State) : (resetEvent s).st = State.reset.st := rfl
@[simp] theorem resetEvent_mem (s : State) : (resetEvent s).mem = Memory.writeBytes [] Config.fontBase s.font.toList := rfl
@[simp] theorem resetEvent_fb (s : State) : (resetEvent s).fb = State.reset.fb := rfl
@[simp] theorem resetEvent_fault (s : State) : (resetEvent s).fault = State.reset.fault := rfl
@[simp] theorem resetEvent_keys (s : State) : (resetEvent s).keys = s.keys := rfl
@[simp] theorem resetEvent_policy (s : State) : (resetEvent s).policy = s.policy := rfl
@[simp] theorem resetEvent_font (s : State) : (resetEvent s).font = s.font := rfl
@[simp] theorem resetEvent_rndDraws (s : State) : (resetEvent s).rndDraws = s.rndDraws := rfl

/-! ## Registers, slots and keys after an update -/

theorem State.reg_setReg (s : State) (r q : Nibble) (b : Byte) :
    (s.setReg r b).reg q = if q = r then b else s.reg q := by
  unfold State.reg State.setReg
  by_cases h : q = r
  · subst h; simp
  · have : r.toNat ≠ q.toNat := fun e => h (BitVec.eq_of_toNat_eq e.symm)
    simp [h, this]

@[simp] theorem State.reg_setReg_self (s : State) (r : Nibble) (b : Byte) : (s.setReg r b).reg r = b := by
  simp [State.reg_setReg]

theorem State.reg_setReg_of_ne (s : State) {r q : Nibble} (b : Byte) (h : q ≠ r) :
    (s.setReg r b).reg q = s.reg q := by simp [State.reg_setReg, h]

theorem State.slot_setSlot (s : State) (k q : Nibble) (w : Word) :
    (s.setSlot k w).slot q = if q = k then w else s.slot q := by
  unfold State.slot State.setSlot
  by_cases h : q = k
  · subst h; simp
  · have : k.toNat ≠ q.toNat := fun e => h (BitVec.eq_of_toNat_eq e.symm)
    simp [h, this]

theorem State.key_setPressed (s : State) (k q : Nibble) (p : Bool) :
    (setPressed k p s).key q = if q = k then p else s.key q := by
  unfold State.key setPressed
  by_cases h : q = k
  · subst h; simp
  · have : k.toNat ≠ q.toNat := fun e => h (BitVec.eq_of_toNat_eq e.symm)
    simp [h, this]

/-! The reads depend on one field only. -/

theorem State.reg_congr {s t : State} (h : t.v = s.v) (r : Nibble) : t.reg r = s.reg r := by
  simp [State.reg, h]

theorem State.slot_congr {s t : State} (h : t.stk = s.stk) (k : Nibble) : t.slot k = s.slot k := by
  simp [State.slot, h]

theorem State.key_congr {s t : State} (h : t.keys = s.keys) (k : Nibble) : t.key k = s.key k := by
  simp [State.key, h]

@[simp] theorem State.reg_advance (s : State) (n : Word) (r : Nibble) : (s.advance n).reg r = s.reg r := rfl
@[simp] theorem State.slot_advance (s : State) (n : Word) (k : Nibble) : (s.advance n).slot k = s.slot k := rfl
@[simp] theorem State.reg_setScreen (s : State) (fb : Framebuffer) (r : Nibble) : (s.setScreen fb).reg r = s.reg r := rfl
@[simp] theorem State.reg_storeAtI (s : State) (bytes : List Byte) (r : Nibble) : (s.storeAtI bytes).reg r = s.reg r := rfl
@[simp] theorem State.slot_loadAtI (s : State) (x k : Nibble) : (s.loadAtI x).slot k = s.slot k :=
  State.slot_congr (t := s.loadAtI x) rfl k
@[simp] theorem State.slot_setReg (s : State) (r : Nibble) (b : Byte) (k : Nibble) :
    (s.setReg r b).slot k = s.slot k := rfl

/-- A skip is one of the two advances (R110). -/
theorem State.skipIf_eq (s : State) (p : Bool) : s.skipIf p = s.advance (if p then 4 else 2) := by
  cases p <;> rfl

/-- What putting a result changes: V[x] and pc (R120). -/
theorem State.putResult_eq (s : State) (x : Nibble) (b : Byte) : s.putResult x b = (s.setReg x b).advance 2 := rfl

theorem State.reg_putResult (s : State) (x q : Nibble) (b : Byte) :
    (s.putResult x b).reg q = if q = x then b else s.reg q := by
  simp [State.putResult_eq, State.reg_setReg]

/-- R130: of the two writes to V[x] and VF the result is the later one. -/
theorem State.reg_putFlagResult (s : State) (x q : Nibble) (f b : Byte) :
    (s.putFlagResult x f b).reg q = if q = x then b else if q = vf then f else s.reg q := by
  simp [State.putFlagResult, State.reg_putResult, State.reg_setReg]

end Sys2Proof.Machine
end

