-- ==== Sys2Proof/Laws/Ops.lean ====
section
/-! SUPPORT. What each shared operation can do, once: the bound check, the fetch, the stack primitives, the end of a
cycle, the transfers through I, the tick. -/

namespace Sys2Proof.Machine

/-! ## The bound check (R56, R59) -/

/-- The check passes exactly when the transfer is empty or ends at or below 4095. -/
theorem rangeFault_eq_none (base length : Nat) :
    rangeFault base length = none ↔ length = 0 ∨ base + length ≤ 4096 := by
  unfold rangeFault
  split <;> simp <;> omega

/-- When it fails it names the lowest address of the range above 4095. -/
theorem rangeFault_eq_some {base length info : Nat} (h : rangeFault base length = some info) :
    1 ≤ length ∧ 4096 < base + length ∧ info = max base 4096 := by
  unfold rangeFault at h
  split at h
  · next hc => exact ⟨hc.1, by omega, by simpa using h.symm⟩
  · simp at h

/-! ## The end of a cycle (R201) -/

@[simp] theorem settle_done (s t : State) : settle s (.done t) = .next t := rfl
@[simp] theorem settle_raised (s : State) (c : FaultCause) (n : Nat) :
    settle s (.raised c n) = .next (takeFault c n s) := rfl
@[simp] theorem settle_stuck (s : State) (r : Fault) : settle s (.stuck r) = .fault r := rfl

/-- A cycle that ends in a next state either did its rule or took a fault on the state as it was (R176). -/
theorem settle_next {s t : State} {a : Attempt} (h : settle s a = .next t) :
    a = .done t ∨ ∃ c n, a = .raised c n ∧ t = takeFault c n s := by
  cases a with
  | done u => left; simpa using h
  | raised c n => right; exact ⟨c, n, rfl, by simpa using h.symm⟩
  | stuck r => simp at h

/-! ## Fetch (R25, R54) -/

theorem State.fetch_eq_none (s : State) : s.fetch = none ↔ 0xFFE < s.pc.toNat := by
  unfold State.fetch
  split <;> simp <;> omega

theorem State.fetch_eq_some {s : State} {w : Word} (h : s.fetch = some w) :
    s.pc.toNat ≤ 0xFFE ∧ w = wordOfBytes (s.mem.read s.pc.toNat) (s.mem.read (s.pc.toNat + 1)) := by
  unfold State.fetch at h
  split at h
  · simp at h
  · exact ⟨by omega, by simpa using h.symm⟩

/-! ## The stack (R101, R102) -/

/-- Everything `Call(t)` can do. -/
theorem callTo_cases (target : Word) (s : State) :
    (15 ≤ s.sp.toNat ∧ callTo target s = .raised .stackOverflow s.pc.toNat) ∨
    (s.sp.toNat ≤ 14 ∧ callTo target s =
      .done { (s.setSlot ((s.sp + 1).setWidth 4) s.pc) with sp := s.sp + 1, pc := target }) := by
  unfold callTo
  split
  · next h => exact .inl ⟨h, rfl⟩
  · next h => exact .inr ⟨by omega, rfl⟩

/-- Everything `Return()` can do. -/
theorem returnFrom_cases (s : State) :
    (s.sp.toNat = 0 ∧ returnFrom s = .raised .stackUnderflow s.pc.toNat) ∨
    (15 < s.sp.toNat ∧ returnFrom s = .stuck (.stackSlotAbsent s.sp.toNat)) ∨
    (1 ≤ s.sp.toNat ∧ s.sp.toNat ≤ 15 ∧
      returnFrom s = .done { s with pc := s.slot (s.sp.setWidth 4), sp := s.sp - 1 }) := by
  unfold returnFrom
  split
  · next h => exact .inl ⟨h, rfl⟩
  · next h =>
    split
    · next h' => exact .inr (.inl ⟨h', rfl⟩)
    · next h' => exact .inr (.inr ⟨by omega, by omega, rfl⟩)

/-! ## Transfers through I (R144, R145, R146) -/

/-- A checked transfer raises OutOfBounds or does what it was to do (R59). -/
theorem State.checkedTransfer_cases (s : State) (length : Nat) (t : State) :
    (1 ≤ length ∧ 4096 < s.i.toNat + length ∧
      s.checkedTransfer length t = .raised .outOfBounds (max s.i.toNat 4096)) ∨
    ((length = 0 ∨ s.i.toNat + length ≤ 4096) ∧ s.checkedTransfer length t = .done t) := by
  unfold State.checkedTransfer State.transferFault
  split
  · next info h =>
    obtain ⟨h1, h2, h3⟩ := rangeFault_eq_some h
    exact .inl ⟨h1, h2, by rw [h3]; rfl⟩
  · next h => exact .inr ⟨(rangeFault_eq_none _ _).1 h, rfl⟩

/-- The registers of Fx55 are x + 1 many. -/
@[simp] theorem State.length_regsUpTo (s : State) (x : Nibble) : (s.regsUpTo x).length = x.toNat + 1 := by
  have : x.toNat < 16 := x.isLt
  simp [State.regsUpTo]; omega

/-- The k-th of them is V[k]. -/
theorem State.getElem_regsUpTo (s : State) (x r : Nibble) (h : r.toNat < (s.regsUpTo x).length) :
    (s.regsUpTo x)[r.toNat] = s.reg r := by
  simp [State.regsUpTo, State.reg]

/-- A register after Fx65 comes from memory up to x, and stays above x. -/
theorem State.reg_loadAtI (s : State) (x r : Nibble) :
    (s.loadAtI x).reg r =
      if r.toNat ≤ x.toNat then s.mem.read (s.i.toNat + r.toNat) else s.reg r := by
  simp [State.reg, State.loadAtI, State.regsFromMemory, State.effective]

@[simp] theorem length_bcdDigits (b : Byte) : (bcdDigits b).length = 3 := rfl

/-! ## Keys (R162) -/

/-- The scan answers a key exactly when it is pressed and no lower one is. -/
theorem State.firstPressed_eq_some (s : State) (k : Nibble) :
    s.firstPressed = some k ↔ s.key k = true ∧ ∀ j : Nibble, j.toNat < k.toNat → s.key j = false := by
  have table : (List.range 16).map (BitVec.ofNat 4) =
      [0, 1, 2, 3, 4, 5, 6, 7, 8, 9, 10, 11, 12, 13, 14, 15] := by decide
  unfold State.firstPressed
  generalize s.key = f
  rw [List.find?_eq_some_iff_getElem]
  constructor
  · rintro ⟨hk, n, hn, he, hlow⟩
    have hn16 : n < 16 := by simpa using hn
    have hkn : k = BitVec.ofNat 4 n := by simpa using he.symm
    have hkt : k.toNat = n := by rw [hkn]; simp; omega
    refine ⟨hk, fun j hj => ?_⟩
    have := hlow j.toNat (by omega)
    simpa using this
  · rintro ⟨hk, hlow⟩
    have hk16 : k.toNat < 16 := k.isLt
    refine ⟨hk, k.toNat, by simp [hk16], by simp, fun j hj => ?_⟩
    have := hlow (BitVec.ofNat 4 j) (by simp; omega)
    simpa using this

/-- It answers nothing exactly when no key is pressed. -/
theorem State.firstPressed_eq_none (s : State) : s.firstPressed = none ↔ ∀ k : Nibble, s.key k = false := by
  unfold State.firstPressed
  simp only [List.find?_eq_none, List.mem_map, List.mem_range]
  constructor
  · intro h k
    simpa using h k ⟨k.toNat, k.isLt, by simp⟩
  · rintro h k -
    simp [h k]

/-! ## The tick (R167) -/

/-- A timer under a Tick as a number. -/
theorem toNat_countDown (t : Byte) : (countDown t).toNat = t.toNat - 1 := by
  unfold countDown
  split
  · rw [BitVec.toNat_sub_of_le] <;> simp [BitVec.le_def]; omega
  · omega

end Sys2Proof.Machine
end

