-- ==== Sys2Proof/Laws/PerInstr.lean ====
section
/-! SUPPORT. Statements about every instruction as syntax, one lemma per constructor. -/

namespace Sys2Proof.Laws.EncodesRow

/-- The word of an instruction satisfies the match and mask test of the row of R84 that carries its form (R80, R96). -/
def Statement (i : Instr) : Prop := ∃ r ∈ opcodeTable, r.form = i.form ∧ r.covers (encode i) = true

theorem of_row {i : Instr} (r : OpcodeRow) (hr : r ∈ opcodeTable) (hf : r.form = i.form)
    (hc : encode i &&& r.mask = r.value) : Statement i := ⟨r, hr, hf, by simpa [OpcodeRow.covers] using hc⟩

theorem cls : Statement .cls :=
  of_row ⟨"00E0", 0x00E0, 0xFFFF⟩ (by decide) rfl (by decide)

theorem ret : Statement .ret :=
  of_row ⟨"00EE", 0x00EE, 0xFFFF⟩ (by decide) rfl (by decide)

theorem jp (nnn : Addr12) : Statement (.jp nnn) :=
  of_row ⟨"1nnn", 0x1000, 0xF000⟩ (by decide) rfl ((mask_F000 _ 0x1).2 (by simp [encode]))

theorem call (nnn : Addr12) : Statement (.call nnn) :=
  of_row ⟨"2nnn", 0x2000, 0xF000⟩ (by decide) rfl ((mask_F000 _ 0x2).2 (by simp [encode]))

theorem seVxKk (x : Nibble) (kk : Byte) : Statement (.seVxKk x kk) :=
  of_row ⟨"3xkk", 0x3000, 0xF000⟩ (by decide) rfl ((mask_F000 _ 0x3).2 (by simp [encode]))

theorem sneVxKk (x : Nibble) (kk : Byte) : Statement (.sneVxKk x kk) :=
  of_row ⟨"4xkk", 0x4000, 0xF000⟩ (by decide) rfl ((mask_F000 _ 0x4).2 (by simp [encode]))

theorem seVxVy (x : Nibble) (y : Nibble) : Statement (.seVxVy x y) :=
  of_row ⟨"5xy0", 0x5000, 0xF00F⟩ (by decide) rfl ((mask_F00F _ 0x5 0x0).2 (by simp [encode]))

theorem ldVxKk (x : Nibble) (kk : Byte) : Statement (.ldVxKk x kk) :=
  of_row ⟨"6xkk", 0x6000, 0xF000⟩ (by decide) rfl ((mask_F000 _ 0x6).2 (by simp [encode]))

theorem addVxKk (x : Nibble) (kk : Byte) : Statement (.addVxKk x kk) :=
  of_row ⟨"7xkk", 0x7000, 0xF000⟩ (by decide) rfl ((mask_F000 _ 0x7).2 (by simp [encode]))

theorem ldVxVy (x : Nibble) (y : Nibble) : Statement (.ldVxVy x y) :=
  of_row ⟨"8xy0", 0x8000, 0xF00F⟩ (by decide) rfl ((mask_F00F _ 0x8 0x0).2 (by simp [encode]))

theorem orVxVy (x : Nibble) (y : Nibble) : Statement (.orVxVy x y) :=
  of_row ⟨"8xy1", 0x8001, 0xF00F⟩ (by decide) rfl ((mask_F00F _ 0x8 0x1).2 (by simp [encode]))

theorem andVxVy (x : Nibble) (y : Nibble) : Statement (.andVxVy x y) :=
  of_row ⟨"8xy2", 0x8002, 0xF00F⟩ (by decide) rfl ((mask_F00F _ 0x8 0x2).2 (by simp [encode]))

theorem xorVxVy (x : Nibble) (y : Nibble) : Statement (.xorVxVy x y) :=
  of_row ⟨"8xy3", 0x8003, 0xF00F⟩ (by decide) rfl ((mask_F00F _ 0x8 0x3).2 (by simp [encode]))

theorem addVxVy (x : Nibble) (y : Nibble) : Statement (.addVxVy x y) :=
  of_row ⟨"8xy4", 0x8004, 0xF00F⟩ (by decide) rfl ((mask_F00F _ 0x8 0x4).2 (by simp [encode]))

theorem subVxVy (x : Nibble) (y : Nibble) : Statement (.subVxVy x y) :=
  of_row ⟨"8xy5", 0x8005, 0xF00F⟩ (by decide) rfl ((mask_F00F _ 0x8 0x5).2 (by simp [encode]))

theorem shrVx (x : Nibble) (y : Nibble) : Statement (.shrVx x y) :=
  of_row ⟨"8xy6", 0x8006, 0xF00F⟩ (by decide) rfl ((mask_F00F _ 0x8 0x6).2 (by simp [encode]))

theorem subnVxVy (x : Nibble) (y : Nibble) : Statement (.subnVxVy x y) :=
  of_row ⟨"8xy7", 0x8007, 0xF00F⟩ (by decide) rfl ((mask_F00F _ 0x8 0x7).2 (by simp [encode]))

theorem shlVx (x : Nibble) (y : Nibble) : Statement (.shlVx x y) :=
  of_row ⟨"8xyE", 0x800E, 0xF00F⟩ (by decide) rfl ((mask_F00F _ 0x8 0xE).2 (by simp [encode]))

theorem sneVxVy (x : Nibble) (y : Nibble) : Statement (.sneVxVy x y) :=
  of_row ⟨"9xy0", 0x9000, 0xF00F⟩ (by decide) rfl ((mask_F00F _ 0x9 0x0).2 (by simp [encode]))

theorem ldINnn (nnn : Addr12) : Statement (.ldINnn nnn) :=
  of_row ⟨"Annn", 0xA000, 0xF000⟩ (by decide) rfl ((mask_F000 _ 0xA).2 (by simp [encode]))

theorem jpV0 (nnn : Addr12) : Statement (.jpV0 nnn) :=
  of_row ⟨"Bnnn", 0xB000, 0xF000⟩ (by decide) rfl ((mask_F000 _ 0xB).2 (by simp [encode]))

theorem rndVxKk (x : Nibble) (kk : Byte) : Statement (.rndVxKk x kk) :=
  of_row ⟨"Cxkk", 0xC000, 0xF000⟩ (by decide) rfl ((mask_F000 _ 0xC).2 (by simp [encode]))

theorem drw (x : Nibble) (y : Nibble) (n : Nibble) : Statement (.drw x y n) :=
  of_row ⟨"Dxyn", 0xD000, 0xF000⟩ (by decide) rfl ((mask_F000 _ 0xD).2 (by simp [encode]))

theorem skp (x : Nibble) : Statement (.skp x) :=
  of_row ⟨"Ex9E", 0xE09E, 0xF0FF⟩ (by decide) rfl ((mask_F0FF _ 0xE 0x9E).2 (by simp [encode]))

theorem sknp (x : Nibble) : Statement (.sknp x) :=
  of_row ⟨"ExA1", 0xE0A1, 0xF0FF⟩ (by decide) rfl ((mask_F0FF _ 0xE 0xA1).2 (by simp [encode]))

theorem ldVxDt (x : Nibble) : Statement (.ldVxDt x) :=
  of_row ⟨"Fx07", 0xF007, 0xF0FF⟩ (by decide) rfl ((mask_F0FF _ 0xF 0x07).2 (by simp [encode]))

theorem ldVxK (x : Nibble) : Statement (.ldVxK x) :=
  of_row ⟨"Fx0A", 0xF00A, 0xF0FF⟩ (by decide) rfl ((mask_F0FF _ 0xF 0x0A).2 (by simp [encode]))

theorem ldDtVx (x : Nibble) : Statement (.ldDtVx x) :=
  of_row ⟨"Fx15", 0xF015, 0xF0FF⟩ (by decide) rfl ((mask_F0FF _ 0xF 0x15).2 (by simp [encode]))

theorem ldStVx (x : Nibble) : Statement (.ldStVx x) :=
  of_row ⟨"Fx18", 0xF018, 0xF0FF⟩ (by decide) rfl ((mask_F0FF _ 0xF 0x18).2 (by simp [encode]))

theorem addIVx (x : Nibble) : Statement (.addIVx x) :=
  of_row ⟨"Fx1E", 0xF01E, 0xF0FF⟩ (by decide) rfl ((mask_F0FF _ 0xF 0x1E).2 (by simp [encode]))

theorem ldFVx (x : Nibble) : Statement (.ldFVx x) :=
  of_row ⟨"Fx29", 0xF029, 0xF0FF⟩ (by decide) rfl ((mask_F0FF _ 0xF 0x29).2 (by simp [encode]))

theorem ldBVx (x : Nibble) : Statement (.ldBVx x) :=
  of_row ⟨"Fx33", 0xF033, 0xF0FF⟩ (by decide) rfl ((mask_F0FF _ 0xF 0x33).2 (by simp [encode]))

theorem ldMemIVx (x : Nibble) : Statement (.ldMemIVx x) :=
  of_row ⟨"Fx55", 0xF055, 0xF0FF⟩ (by decide) rfl ((mask_F0FF _ 0xF 0x55).2 (by simp [encode]))

theorem ldVxMemI (x : Nibble) : Statement (.ldVxMemI x) :=
  of_row ⟨"Fx65", 0xF065, 0xF0FF⟩ (by decide) rfl ((mask_F0FF _ 0xF 0x65).2 (by simp [encode]))

end Sys2Proof.Laws.EncodesRow
end

