-- ==== Sys2Proof/Tests/Slice0.lean ====
section
/-! SUPPORT. Tests of single steps, words written out from the encodings of spec/30_encoding.md R84, and witnesses for
the hypotheses of the statements. Expected values are those of spec/95_test_vectors.md; the comment names the vector. -/

namespace Sys2Proof.Tests
open Sys2Proof Sys2Proof.Machine

/-- Whether an answer is a next state with this property. -/
def gives (r : Result) (p : State → Bool) : Bool :=
  match r with
  | .next t => p t
  | .fault _ => false
  | .refused _ => false

/-- Whether an answer is exactly this next state. -/
def isNext (r : Result) (t : State) : Bool := gives r fun u => u == t

/-- Whether an operation is refused for this reason. -/
def isRefused (r : Result) (reason : Refusal) : Bool :=
  match r with
  | .next _ => false
  | .fault _ => false
  | .refused q => q == reason

/-- The reset state with a word at pc. -/
def word (w : Word) : State := { State.reset with mem := State.reset.mem.writeWord 0x200 w }

/-- A state with bytes stored from an address up. -/
def put (a : Nat) (bytes : List Byte) (s : State) : State := { s with mem := s.mem.writeBytes a bytes }

/-- A state with one pixel of a row pattern: row 0 of the screen, bit x for column x. -/
def row0 (bits : BitVec 64) (s : State) : State := s.setScreen (s.fb.set 0 bits)

/-! ## Well-formed words (R82, R91): one unmatched word of each of the six groups -/

theorem test_illformed_op0 : wordWellFormed 0x0000 = false ∧ decodeWord 0x00E1 = .unmatched 0x00E1 := by decide
theorem test_illformed_op5 : wordWellFormed 0x5121 = false ∧ decodeWord 0x5121 = .unmatched 0x5121 := by decide
theorem test_illformed_op8 : wordWellFormed 0x8128 = false ∧ decodeWord 0x8128 = .unmatched 0x8128 := by decide
theorem test_illformed_op9 : wordWellFormed 0x9121 = false ∧ decodeWord 0x9121 = .unmatched 0x9121 := by decide
theorem test_illformed_opE : wordWellFormed 0xE19F = false ∧ decodeWord 0xE19F = .unmatched 0xE19F := by decide
theorem test_illformed_opF : wordWellFormed 0xF1FF = false ∧ decodeWord 0xF1FF = .unmatched 0xF1FF := by decide
theorem test_wellformed : wordWellFormed 0x00E0 = true ∧ wordWellFormed 0x812E = true ∧
    wordWellFormed 0xFF65 = true := by decide

/-! ## Decoding (R84): a word written out for every constructor, the fields by R77 -/

theorem test_decode_flow : decodeWord 0x00EE = .instr .ret ∧ decodeWord 0x1ABC = .instr (.jp 0xABC) ∧
    decodeWord 0x2300 = .instr (.call 0x300) ∧ decodeWord 0xB9F1 = .instr (.jpV0 0x9F1) := by decide

theorem test_decode_skip : decodeWord 0x3A42 = .instr (.seVxKk 0xA 0x42) ∧
    decodeWord 0x4F01 = .instr (.sneVxKk 0xF 0x01) ∧ decodeWord 0x5120 = .instr (.seVxVy 0x1 0x2) ∧
    decodeWord 0x9CD0 = .instr (.sneVxVy 0xC 0xD) := by decide

theorem test_decode_load : decodeWord 0x6B7F = .instr (.ldVxKk 0xB 0x7F) ∧
    decodeWord 0x7F02 = .instr (.addVxKk 0xF 0x02) ∧ decodeWord 0x8EF0 = .instr (.ldVxVy 0xE 0xF) ∧
    decodeWord 0xC30F = .instr (.rndVxKk 0x3 0x0F) := by decide

theorem test_decode_alu : decodeWord 0x8121 = .instr (.orVxVy 0x1 0x2) ∧
    decodeWord 0x8122 = .instr (.andVxVy 0x1 0x2) ∧ decodeWord 0x8123 = .instr (.xorVxVy 0x1 0x2) ∧
    decodeWord 0x83A4 = .instr (.addVxVy 0x3 0xA) ∧ decodeWord 0x8125 = .instr (.subVxVy 0x1 0x2) ∧
    decodeWord 0x8127 = .instr (.subnVxVy 0x1 0x2) := by decide

theorem test_decode_shift : decodeWord 0x8126 = .instr (.shrVx 0x1 0x2) ∧
    decodeWord 0x800E = .instr (.shlVx 0x0 0x0) ∧ decodeWord 0x8FFE = .instr (.shlVx 0xF 0xF) := by decide

theorem test_decode_index : decodeWord 0xA300 = .instr (.ldINnn 0x300) ∧
    decodeWord 0xF21E = .instr (.addIVx 0x2) ∧ decodeWord 0xFA29 = .instr (.ldFVx 0xA) ∧
    decodeWord 0xF333 = .instr (.ldBVx 0x3) ∧ decodeWord 0xF255 = .instr (.ldMemIVx 0x2) ∧
    decodeWord 0xFF65 = .instr (.ldVxMemI 0xF) := by decide

theorem test_decode_display : decodeWord 0x00E0 = .instr .cls ∧
    decodeWord 0xD015 = .instr (.drw 0x0 0x1 0x5) := by decide

theorem test_decode_keys_and_timers : decodeWord 0xE09E = .instr (.skp 0x0) ∧
    decodeWord 0xE3A1 = .instr (.sknp 0x3) ∧ decodeWord 0xF10A = .instr (.ldVxK 0x1) ∧
    decodeWord 0xF207 = .instr (.ldVxDt 0x2) ∧ decodeWord 0xF115 = .instr (.ldDtVx 0x1) ∧
    decodeWord 0xF418 = .instr (.ldStVx 0x4) := by decide

/-- The table's numbering: V30-13, and a word shorter than its bits. -/
theorem test_decodeTableWord : decodeTableWord 16 0x83A4 = some (.addVxVy 0x3 0xA) ∧
    decodeTableWord 16 0x0000 = none := by decide

theorem test_encode : encode (.addVxVy 0x3 0xA) = 0x83A4 ∧ encodeBytes (.drw 0x0 0x1 0x5) = [0xD0, 0x15] := by decide

/-! ## Fetch and unmatched words -/

-- S11a and the note under it: the first cycle after Load([12, 34, 56]) jumps to 0x234
theorem test_load_then_cycle : gives (event (.load [0x12, 0x34, 0x56]) State.reset) (fun t =>
    t.mem.read 0x200 == 0x12 && t.mem.read 0x201 == 0x34 && t.mem.read 0x202 == 0x56 &&
    gives (step t) fun u => u.pc == 0x0234) = true := by decide

-- V30-1: an odd pc is legal
theorem test_fetch_odd : gives (step { put 0x201 [0x60, 0x2A] State.reset with pc := 0x0201 })
    (fun t => t.reg 0x0 == 0x2A && t.pc == 0x0203) = true := by decide

-- V30-2, V60-4
theorem test_fetch_out_of_bounds : isNext (step { State.reset with pc := 0x0FFF })
    { State.reset with pc := 0x0FFF, fault := some ⟨.fetchOutOfBounds, 0x0FFF⟩ } = true := by decide

-- V30-3: the last address an instruction can stand at
theorem test_fetch_last : gives (step { put 0xFFE [0x60, 0x05] State.reset with pc := 0x0FFE })
    (fun t => t.reg 0x0 == 0x05 && t.pc == 0x1000) = true := by decide

-- V30-4, V30-12
theorem test_unmatched_nop : isNext (step State.reset) { State.reset with pc := 0x0202 } = true := by decide
theorem test_unmatched_fault : gives (step { word 0xFFFF with policy := .fault })
    (fun t => t.fault == some ⟨.decodeError, 0xFFFF⟩ && t.pc == 0x0200) = true := by decide

theorem test_withFetchWord : gives (step (State.reset.withFetchWord 16 0x6B7F))
    (fun t => t.reg 0xB == 0x7F && t.pc == 0x0202) = true := by decide

/-! ## Flow and stack -/

-- V40-1, V40-11
theorem test_jp : gives (step (word 0x1ABC)) (fun t => t.pc == 0x0ABC) = true := by decide
theorem test_jp_parked : isNext (step (word 0x1200)) (word 0x1200) = true := by decide

-- V40-3, V40-7
theorem test_call : gives (exec (.call 0x300) { State.reset with pc := 0x0204 })
    (fun t => t.sp == 1 && t.slot 0x1 == 0x0204 && t.slot 0x0 == 0 && t.pc == 0x0300) = true := by decide
theorem test_call_overflow : isNext (exec (.call 0x300) { State.reset with pc := 0x0204, sp := 15 })
    { State.reset with pc := 0x0204, sp := 15, fault := some ⟨.stackOverflow, 0x0204⟩ } = true := by decide

-- V40-4, V40-5
theorem test_ret : gives (exec .ret ({ State.reset with pc := 0x0300, sp := 1 }.setSlot 0x1 0x0204))
    (fun t => t.pc == 0x0206 && t.sp == 0 && t.slot 0x1 == 0x0204) = true := by decide
theorem test_ret_underflow : isNext (exec .ret { State.reset with pc := 0x0300 })
    { State.reset with pc := 0x0300, fault := some ⟨.stackUnderflow, 0x0300⟩ } = true := by decide

-- V40-9: no mask to 12 bits
theorem test_jpV0 : gives (exec (.jpV0 0xFFF) (State.reset.setReg 0x0 0xFF)) (fun t => t.pc == 0x10FE) = true := by
  decide

/-! ## Skips -/

-- V41-1, V41-2
theorem test_seVxKk : gives (exec (.seVxKk 0xA 0x42) (State.reset.setReg 0xA 0x42)) (fun t => t.pc == 0x0204) = true ∧
    gives (exec (.seVxKk 0xA 0x42) (State.reset.setReg 0xA 0x43)) (fun t => t.pc == 0x0202) = true := by decide
-- V41-3, V41-4
theorem test_sneVxKk : gives (exec (.sneVxKk 0xA 0x42) (State.reset.setReg 0xA 0x42)) (fun t => t.pc == 0x0202) = true ∧
    gives (exec (.sneVxKk 0xA 0x42) (State.reset.setReg 0xA 0x43)) (fun t => t.pc == 0x0204) = true := by decide
-- V41-5, V41-6
theorem test_seVxVy :
    gives (exec (.seVxVy 0x1 0x2) ((State.reset.setReg 0x1 7).setReg 0x2 7)) (fun t => t.pc == 0x0204) = true ∧
    gives (exec (.seVxVy 0x1 0x2) ((State.reset.setReg 0x1 7).setReg 0x2 8)) (fun t => t.pc == 0x0202) = true := by
  decide
-- V41-8, V41-9
theorem test_sneVxVy :
    gives (exec (.sneVxVy 0x1 0x2) ((State.reset.setReg 0x1 7).setReg 0x2 7)) (fun t => t.pc == 0x0202) = true ∧
    gives (exec (.sneVxVy 0x1 0x2) ((State.reset.setReg 0x1 7).setReg 0x2 8)) (fun t => t.pc == 0x0204) = true := by
  decide

/-! ## Arithmetic, logic, shifts: `alu i a b f` runs i with V1 = a, V2 = b, VF = f -/

/-- The registers of the vectors of 2.4 and 2.5. -/
def ready (a b f : Byte) : State := ((State.reset.setReg 0x1 a).setReg 0x2 b).setReg 0xF f

/-- V1, V2 and VF after an instruction. -/
def alu (i : Instr) (a b f : Byte) : Option (Byte × Byte × Byte) :=
  match exec i (ready a b f) with
  | .next t => if t.pc = 0x0202 then some (t.reg 0x1, t.reg 0x2, t.reg 0xF) else none
  | .fault _ => none
  | .refused _ => none

-- V42-1
theorem test_ldVxKk : gives (step (word 0x6B7F)) (fun t => t.reg 0xB == 0x7F && t.pc == 0x0202) = true := by decide
-- V42-2, V42-3
theorem test_addVxKk : alu (.addVxKk 0x1 0x01) 0xFF 0x00 0x55 = some (0x00, 0x00, 0x55) ∧
    alu (.addVxKk 0xF 0x02) 0x00 0x00 0xFF = some (0x00, 0x00, 0x01) := by decide
-- V42-4
theorem test_ldVxVy : alu (.ldVxVy 0x1 0x2) 0x01 0xAB 0x00 = some (0xAB, 0xAB, 0x00) := by decide
-- V42-5
theorem test_orVxVy : alu (.orVxVy 0x1 0x2) 0xF0 0x0F 0x77 = some (0xFF, 0x0F, 0x77) := by decide
-- V42-6
theorem test_andVxVy : alu (.andVxVy 0x1 0x2) 0xF0 0x3C 0x77 = some (0x30, 0x3C, 0x77) := by decide
-- V42-7, V42-8
theorem test_xorVxVy : alu (.xorVxVy 0x1 0x2) 0xF0 0x3C 0x77 = some (0xCC, 0x3C, 0x77) ∧
    alu (.xorVxVy 0x1 0x1) 0x5A 0x00 0x00 = some (0x00, 0x00, 0x00) := by decide
-- V42-9, V42-10
theorem test_addVxVy : alu (.addVxVy 0x1 0x2) 0xFF 0x01 0x00 = some (0x00, 0x01, 0x01) ∧
    alu (.addVxVy 0x1 0x2) 0x80 0x7F 0x01 = some (0xFF, 0x7F, 0x00) := by decide
-- V42-20, V42-22, V42-24: VF as destination and as source
theorem test_addVxVy_vf : alu (.addVxVy 0xF 0x1) 0x20 0x00 0xF0 = some (0x20, 0x00, 0x10) ∧
    alu (.addVxVy 0x1 0xF) 0xFF 0x00 0x01 = some (0x00, 0x00, 0x01) ∧
    alu (.addVxVy 0xF 0xF) 0x00 0x00 0x90 = some (0x00, 0x00, 0x20) := by decide
-- V42-14, V42-15
theorem test_subVxVy : alu (.subVxVy 0x1 0x2) 0x03 0x0A 0x01 = some (0xF9, 0x0A, 0x00) ∧
    alu (.subVxVy 0x1 0x2) 0x42 0x42 0x01 = some (0x00, 0x42, 0x00) := by decide
-- V42-21, V42-23
theorem test_subVxVy_vf : alu (.subVxVy 0xF 0x1) 0x07 0x00 0x05 = some (0x07, 0x00, 0xFE) ∧
    alu (.subVxVy 0x1 0xF) 0x05 0x00 0x01 = some (0x04, 0x00, 0x01) := by decide
-- V42-17, V42-19
theorem test_subnVxVy : alu (.subnVxVy 0x1 0x2) 0x03 0x0A 0x00 = some (0x07, 0x0A, 0x01) ∧
    alu (.subnVxVy 0x1 0x2) 0x42 0x42 0x01 = some (0x00, 0x42, 0x00) := by decide
-- V43-3, V43-8
theorem test_shrVx : alu (.shrVx 0x1 0x2) 0x05 0xF0 0x00 = some (0x02, 0xF0, 0x01) ∧
    alu (.shrVx 0xF 0x0) 0x00 0x00 0x02 = some (0x00, 0x00, 0x01) := by decide
-- V43-5, V43-9
theorem test_shlVx : alu (.shlVx 0x1 0x0) 0xC1 0x00 0x00 = some (0x82, 0x00, 0x01) ∧
    alu (.shlVx 0xF 0x0) 0x00 0x00 0x81 = some (0x00, 0x00, 0x02) := by decide
-- V42-26: the only random byte with a result the spec fixes; the draw is counted
theorem test_rndVxKk : ∃ t, exec (.rndVxKk 0x3 0x00) (State.reset.setReg 0x3 0x09) = .next t ∧
    t.reg 0x3 = 0x00 ∧ t.pc = 0x0202 ∧ t.rndDraws = 1 := by
  refine ⟨_, rfl, ?_, rfl, rfl⟩
  show Config.rnd 0 &&& 0x00 = 0x00
  exact BitVec.and_zero

/-! ## The address register and memory -/

-- V44-1
theorem test_ldINnn : gives (step (word 0xA300)) (fun t => t.i == 0x0300 && t.pc == 0x0202) = true := by decide
-- V44-3, V44-4
theorem test_addIVx : gives (exec (.addIVx 0x2) ({ State.reset with i := 0x0FFF }.setReg 0x2 0x01))
      (fun t => t.i == 0x1000 && t.reg 0xF == 0) = true ∧
    gives (exec (.addIVx 0x2) ({ State.reset with i := 0xFFFF }.setReg 0x2 0x01)) (fun t => t.i == 0x0000) = true := by
  decide
-- V44-5, V44-6
theorem test_ldFVx : gives (exec (.ldFVx 0xA) (State.reset.setReg 0xA 0x0A)) (fun t => t.i == 0x0082) = true ∧
    gives (exec (.ldFVx 0xA) (State.reset.setReg 0xA 0xFF)) (fun t => t.i == 0x054B) = true := by decide
-- V44-9
theorem test_ldBVx : gives (exec (.ldBVx 0x3) ({ State.reset with i := 0x0300 }.setReg 0x3 0x9C))
    (fun t => t.mem.readBytes 0x300 3 == [0x01, 0x05, 0x06] && t.pc == 0x0202 && t.i == 0x0300) = true := by decide
-- V44-13, V44-14
theorem test_ldBVx_fault : gives (exec (.ldBVx 0x3) ({ State.reset with i := 0x0FFE }.setReg 0x3 0x64))
      (fun t => t.fault == some ⟨.outOfBounds, 0x1000⟩ && t.mem.read 0xFFE == 0) = true ∧
    gives (exec (.ldBVx 0x3) { State.reset with i := 0x1234 })
      (fun t => t.fault == some ⟨.outOfBounds, 0x1234⟩) = true := by decide
-- V44-15
theorem test_ldMemIVx : gives (exec (.ldMemIVx 0x2)
      (((({ State.reset with i := 0x0300 }.setReg 0x0 0x11).setReg 0x1 0x22).setReg 0x2 0x33).setReg 0x3 0x44))
    (fun t => t.mem.readBytes 0x300 4 == [0x11, 0x22, 0x33, 0x00] && t.i == 0x0300) = true := by decide
-- V44-17
theorem test_ldMemIVx_fault : gives (exec (.ldMemIVx 0x1) ({ State.reset with i := 0x0FFF }.setReg 0x0 0xAA))
    (fun t => t.fault == some ⟨.outOfBounds, 0x1000⟩ && t.mem.read 0xFFF == 0) = true := by decide
-- V44-20
theorem test_ldVxMemI : gives (exec (.ldVxMemI 0x2) (put 0x300 [0x01, 0x05, 0x06, 0x09] { State.reset with i := 0x0300 }))
    (fun t => t.reg 0x0 == 0x01 && t.reg 0x1 == 0x05 && t.reg 0x2 == 0x06 && t.reg 0x3 == 0x00) = true := by decide
-- V44-22
theorem test_ldVxMemI_fault : gives (exec (.ldVxMemI 0x1) (put 0xFFF [0x07] { State.reset with i := 0x0FFF }))
    (fun t => t.fault == some ⟨.outOfBounds, 0x1000⟩ && t.reg 0x0 == 0x00) = true := by decide

/-! ## Display -/

-- V45-16
theorem test_cls : gives (exec .cls ((row0 0x3 State.reset).setReg 0xF 0x01))
    (fun t => t.fb == State.reset.fb && t.reg 0xF == 0x01 && t.pc == 0x0202) = true := by decide
-- V45-1, V45-13: the right edge wraps within the row, the last row wraps to row 0
theorem test_drw_wrap : gives (exec (.drw 0x0 0x1 0x1)
      (put 0x300 [0xFF] (({ State.reset with i := 0x0300 }.setReg 0x0 60).setReg 0x1 31)))
    (fun t => t.fb == State.reset.fb.set 31 0xF00000000000000F && t.reg 0xF == 0x00) = true ∧
    gives (exec (.drw 0x0 0x1 0x2)
      (put 0x300 [0xC0, 0xC0] (({ State.reset with i := 0x0300 }.setReg 0x0 63).setReg 0x1 31)))
    (fun t => t.fb == (State.reset.fb.set 31 0x8000000000000001).set 0 0x8000000000000001) = true := by decide
-- V45-5, V45-9: a true XOR with a collision; a sprite past the end of memory
theorem test_drw_collision : gives (exec (.drw 0x0 0x1 0x1) (put 0x300 [0xC0] (row0 0x1 { State.reset with i := 0x0300 })))
      (fun t => t.fb == State.reset.fb.set 0 0x2 && t.reg 0xF == 0x01) = true ∧
    gives (exec (.drw 0x0 0x1 0x2) ({ State.reset with i := 0x0FFF }.setReg 0xF 0x01))
      (fun t => t.fault == some ⟨.outOfBounds, 0x1000⟩ && t.reg 0xF == 0x01 && t.pc == 0x0200) = true := by decide

/-! ## Keypad and timers -/

-- V46-1, V46-2, V46-5
theorem test_skp :
    gives (exec (.skp 0x3) (setPressed 0x7 true ({ State.reset with pc := 0x0240 }.setReg 0x3 7)))
      (fun t => t.pc == 0x0244) = true ∧
    gives (exec (.skp 0x3) ({ State.reset with pc := 0x0240 }.setReg 0x3 7)) (fun t => t.pc == 0x0242) = true ∧
    gives (exec (.skp 0x3) (setPressed 0x0 true (State.reset.setReg 0x3 0x10)))
      (fun t => t.fault == some ⟨.keyIndexOutOfRange, 0x10⟩) = true := by decide
-- V46-3, V46-4
theorem test_sknp :
    gives (exec (.sknp 0x3) (setPressed 0x7 true ({ State.reset with pc := 0x0240 }.setReg 0x3 7)))
      (fun t => t.pc == 0x0242) = true ∧
    gives (exec (.sknp 0x3) (setPressed 0x8 true ({ State.reset with pc := 0x0240 }.setReg 0x3 7)))
      (fun t => t.pc == 0x0244) = true := by decide
-- V46-7, V46-8
theorem test_ldVxK : isNext (exec (.ldVxK 0x1) State.reset) State.reset = true ∧
    gives (exec (.ldVxK 0x1) (setPressed 0x9 true (setPressed 0x7 true State.reset)))
      (fun t => t.reg 0x1 == 0x07 && t.pc == 0x0202) = true := by decide
-- V46-11
theorem test_ldVxDt : gives (exec (.ldVxDt 0x2) { State.reset with dt := 0x06 })
    (fun t => t.reg 0x2 == 0x06 && t.dt == 0x06 && t.pc == 0x0202) = true := by decide
-- V46-12
theorem test_ldDtVx : gives (exec (.ldDtVx 0x1) (State.reset.setReg 0x1 0x07))
    (fun t => t.dt == 0x07 && t.pc == 0x0202) = true := by decide
-- V46-13
theorem test_ldStVx : gives (exec (.ldStVx 0x4) ({ State.reset with dt := 0x03 }.setReg 0x4 0x1E))
    (fun t => t.st == 0x1E && t.dt == 0x03 && t.pc == 0x0202) = true := by decide

/-! ## Events -/

-- V46-14, V46-16
theorem test_tick : isNext (event .tick { State.reset with dt := 0x02 }) { State.reset with dt := 0x01 } = true ∧
    isNext (event .tick { State.reset with dt := 0x05, fault := some ⟨.fetchOutOfBounds, 0x1000⟩ })
      { State.reset with dt := 0x04, fault := some ⟨.fetchOutOfBounds, 0x1000⟩ } = true := by decide
-- V60-1
theorem test_latch_freezes : isNext (step { word 0x6B7F with fault := some ⟨.stackOverflow, 0x0200⟩ })
    { word 0x6B7F with fault := some ⟨.stackOverflow, 0x0200⟩ } = true := by decide
-- V60-3
theorem test_clearFault : gives (step (afterEvents
      { word 0x6B7F with pc := 0x1000, fault := some ⟨.fetchOutOfBounds, 0x1000⟩ } [.writePc 0x0200, .clearFault]))
    (fun t => t.reg 0xB == 0x7F && t.fault == none) = true := by decide
-- V60-5
theorem test_reset : isNext
    (event .reset { word 0x6B7F with pc := 0x0300, sp := 3, dt := 9, fault := some ⟨.stackOverflow, 7⟩ })
    State.reset = true := by decide
-- V60-10
theorem test_writeSp : isRefused (event (.writeSp 16) State.reset) (.hostStackPointerOutOfRange 16) = true ∧
    gives (event (.writeSp 15) State.reset) (fun t => t.sp == 15) = true := by decide
-- V60-11, V60-12
theorem test_font : State.reset.mem.readBytes 0x050 5 = [0xF0, 0x90, 0x90, 0x90, 0xF0] ∧
    State.reset.mem.read 0x04F = 0x00 ∧ State.reset.mem.read 0x0A0 = 0x00 := by decide
-- P5, schedule A, cycles 4 and 5: the reference's tick after every cycle; after a fault it is the argument's
theorem test_cycleThenTick : (cycleThenTick false ((word 0xF115).setReg 0x1 0x07)).dt = 0x06 ∧
    (cycleThenTick false { word 0x00EE with dt := 0x05 }).dt = 0x05 ∧
    (cycleThenTick true { word 0x00EE with dt := 0x05 }).dt = 0x04 := by decide
-- R52: other font bytes than the default
theorem test_resetWith_font : ((State.resetWith (Vector.replicate 80 0xAA) .nop 0).mem.read 0x050 = 0xAA) ∧
    (State.resetWith (Vector.replicate 80 0xAA) .nop 0).mem.read 0x0A0 = 0x00 ∧
    (resetEvent { State.reset with font := Vector.replicate 80 0xAA }).mem.read 0x09F = 0xAA := by decide
-- R170: the pair of a stack underflow, V40-5
theorem test_faultPair : gives (exec .ret { State.reset with pc := 0x0300 })
    (fun t => t.faultPair == some (4, 0x0300)) = true := by decide
-- R205
theorem test_snapshot : ((snapshot (row0 0x1 State.reset)).headD []).take 2 = [true, false] := by decide

/-! ## The listing syntax (R95): the first lines of P3, and its sprite bytes -/

theorem test_assemble : assembleListing [.instr .ld [.i, .num 0x20E], .instr .drw [.v 0x0, .v 0x1, .num 2],
    .instr .ld [.v 0xE, .v 0xF], .instr .jp [.num 0x20C], .byte 0xFF, .byte 0x81] =
    some [0xA2, 0x0E, 0xD0, 0x12, 0x8E, 0xF0, 0x12, 0x0C, 0xFF, 0x81] := by decide
theorem test_assemble_rejects : assemble .ld [.v 0x0, .num 0x100] = none ∧ assemble .jp [.v 0x1, .num 0x300] = none ∧
    assemble .add [.i, .num 1] = none := by decide

/-! ## Witnesses: a state and operands that meet the hypotheses of each statement, its clauses at their bounds -/

theorem witness_EncodeOfDecodeIsIdentity : decodeWord 0x81F6 = .instr (.shrVx 0x1 0xF) := by decide

theorem witness_DecoderAgreesWithTable : (⟨"8xy6", 0x8006, 0xF00F⟩ : OpcodeRow) ∈ opcodeTable ∧
    (⟨"8xy6", 0x8006, 0xF00F⟩ : OpcodeRow).covers 0x81F6 = true := by decide

theorem witness_PatternsArePairwiseDisjoint : ∃ r q : OpcodeRow, r ∈ opcodeTable ∧ q ∈ opcodeTable ∧
    r.covers 0x00E0 = true ∧ q.covers 0x00E0 = true :=
  ⟨⟨"00E0", 0x00E0, 0xFFFF⟩, ⟨"00E0", 0x00E0, 0xFFFF⟩, by decide⟩

/-- A state with stored memory, SP at its highest value and a set latch. -/
def busy : State :=
  { word 0x00EE with sp := 15, fault := some ⟨.keyIndexOutOfRange, 16⟩ }

theorem witness_StepKeepsInvariant : State.Inv busy ∧ isNext (step busy) busy = true := by decide
theorem witness_StepKeepsInvariant_fault : State.Inv { word 0x2200 with sp := 15 } ∧
    isNext (step { word 0x2200 with sp := 15 })
      { word 0x2200 with sp := 15, fault := some ⟨.stackOverflow, 0x0200⟩ } = true := by decide
theorem witness_EveryEventKeepsInvariant : State.Inv busy ∧
    isNext (event (.writeByte 0xFFF 0x01) busy) { busy with mem := busy.mem.write 0xFFF 0x01 } = true := by decide
theorem witness_EverySequenceOfEventsKeepsInvariant : State.Inv busy := by decide
theorem witness_StepKeepsPcBound :
    State.PcBounded ({ put 0xFFE [0x00, 0xEE] State.reset with pc := 0x0FFE, sp := 1 }.setSlot 0x1 0x0FFE) ∧
    gives (step ({ put 0xFFE [0x00, 0xEE] State.reset with pc := 0x0FFE, sp := 1 }.setSlot 0x1 0x0FFE))
      (fun t => t.pc == 0x1000) = true := by decide
theorem witness_StepAlwaysAnswersANextState : State.Inv { word 0x00EE with sp := 15 } := by decide

theorem witness_StepRunsTheDecodedInstruction :
    let s := { put 0xFFE [0x60, 0x05] State.reset with pc := 0x0FFE }
    s.fault = none ∧ s.pc.toNat ≤ 0xFFE ∧
      decodeBytes (s.mem.read s.pc.toNat) (s.mem.read (s.pc.toNat + 1)) = .instr (.ldVxKk 0x0 0x05) := by decide

theorem witness_StepOnUnmatchedWord_nop :
    let s := word 0x5121
    s.fault = none ∧ s.pc.toNat ≤ 0xFFE ∧ s.policy = .nop ∧
      decodeBytes (s.mem.read s.pc.toNat) (s.mem.read (s.pc.toNat + 1)) = .unmatched 0x5121 := by decide

theorem witness_StepOnUnmatchedWord_fault :
    let s := { word 0x5121 with policy := .fault }
    s.fault = none ∧ s.pc.toNat ≤ 0xFFE ∧ s.policy = .fault ∧
      decodeBytes (s.mem.read s.pc.toNat) (s.mem.read (s.pc.toNat + 1)) = .unmatched 0x5121 := by decide

theorem witness_FetchPastTheEndFaults : State.reset.fault = none ∧
    0xFFF ≤ ({ State.reset with pc := 0x0FFF } : State).pc.toNat ∧
    0xFFF ≤ ({ State.reset with pc := 0xFFFF } : State).pc.toNat := by decide

theorem witness_SetLatchFreezesTheCycle : busy.fault ≠ none := by decide

/-- A step from a clear latch that sets it to `f`: the hypotheses of two statements. -/
def faults (s : State) (f : FaultRecord) : Bool := s.fault == none && gives (step s) (fun t => t.fault == some f)

-- one for each cause, V30-2, V45-9, V40-7, V40-5, V30-12, V46-6
theorem witness_FaultingCycleOnlySetsTheLatch :
    faults { State.reset with pc := 0x0FFF } ⟨.fetchOutOfBounds, 0x0FFF⟩ = true ∧
    faults { word 0xD012 with i := 0x0FFF } ⟨.outOfBounds, 0x1000⟩ = true ∧
    faults { word 0x2300 with sp := 15 } ⟨.stackOverflow, 0x0200⟩ = true ∧
    faults (word 0x00EE) ⟨.stackUnderflow, 0x0200⟩ = true ∧
    faults { word 0xFFFF with policy := .fault } ⟨.decodeError, 0xFFFF⟩ = true ∧
    faults ((word 0xE3A1).setReg 0x3 0xFF) ⟨.keyIndexOutOfRange, 0xFF⟩ = true := by decide

-- the other instructions that raise OutOfBounds, and SKP
theorem witness_FaultingCycleOnlySetsTheLatch_transfers :
    faults { word 0xF333 with i := 0x0FFE } ⟨.outOfBounds, 0x1000⟩ = true ∧
    faults { word 0xF155 with i := 0x0FFF } ⟨.outOfBounds, 0x1000⟩ = true ∧
    faults { word 0xF165 with i := 0x1234 } ⟨.outOfBounds, 0x1234⟩ = true ∧
    faults ((word 0xE39E).setReg 0x3 0x10) ⟨.keyIndexOutOfRange, 0x10⟩ = true := by decide

theorem witness_ClearedFaultIsRaisedAgain : faults (word 0x00EE) ⟨.stackUnderflow, 0x0200⟩ = true := by decide

theorem witness_LatchReadsAsCodeAndInfo : State.reset.fault = none ∧ busy.fault = some ⟨.keyIndexOutOfRange, 16⟩ ∧
    busy.faultPair = some (6, 16) := by decide

theorem witness_ParkedStateIsFixed : (word 0x1200).parked := ⟨rfl, 0x200, by decide, by decide⟩

-- an instruction for each clause, its change visible
theorem witness_ChangesNameTheInstruction :
    gives (exec (.ldINnn 0x300) State.reset) (fun t => t.i != State.reset.i) = true ∧
    gives (exec (.ldMemIVx 0x0) (State.reset.setReg 0x0 0xAA)) (fun t => t.mem.read 0 != State.reset.mem.read 0) = true ∧
    gives (exec (.drw 0x0 0x1 0x1) { State.reset with i := 0x050 })
      (fun t => pixel t.fb 0 0 != pixel State.reset.fb 0 0) = true ∧
    gives (exec (.call 0x300) State.reset) (fun t => t.sp != 0 && t.slot 0x1 != 0) = true ∧
    gives (exec (.ldDtVx 0x0) (State.reset.setReg 0x0 0x01)) (fun t => t.dt != 0) = true ∧
    gives (exec (.ldStVx 0x0) (State.reset.setReg 0x0 0x01)) (fun t => t.st != 0) = true ∧
    gives (exec (.addVxVy 0x0 0x1) ((State.reset.setReg 0x0 0xFF).setReg 0x1 0x01)) (fun t => t.reg 0xF != 0) = true := by
  decide

theorem witness_ChangesNameTheInstruction_draw : ∃ t, exec (.rndVxKk 0x0 0x01) State.reset = .next t ∧
    t.rndDraws ≠ State.reset.rndDraws := ⟨_, rfl, by decide⟩

theorem witness_OnlyTheSlotAboveSpIsWritten :
    gives (exec (.call 0x300) { State.reset with sp := 14 }) (fun t => t.slot 0xF != 0) = true := by decide

theorem witness_InputsMatterOnlyToTheirInstructions :
    gives (exec (.ldVxDt 0x1) State.reset) (fun _ => true) = true ∧
    (∀ x : Nibble, Instr.ldVxDt 0x1 ≠ .skp x ∧ Instr.ldVxDt 0x1 ≠ .sknp x ∧ Instr.ldVxDt 0x1 ≠ .ldVxK x) ∧
    (∀ (x : Nibble) (kk : Byte), Instr.ldVxDt 0x1 ≠ .rndVxKk x kk) :=
  ⟨by decide, fun _ => ⟨nofun, nofun, nofun⟩, fun _ _ => nofun⟩

-- SP 0 and 14 push, 15 faults
theorem witness_CallPushesItsOwnAddress :
    (0x1 : Nibble).toNat = State.reset.sp.toNat + 1 ∧
    (0xF : Nibble).toNat = ({ State.reset with sp := 14 } : State).sp.toNat + 1 ∧
    15 ≤ ({ State.reset with sp := 15 } : State).sp.toNat := by decide

-- SP 1 and 15 return, 0 faults, 16 is no state of the spec
theorem witness_ReturnResumesAfterTheCall :
    (1 ≤ (0x1 : Nibble).toNat ∧ (0x1 : Nibble).toNat = ({ State.reset with sp := 1 } : State).sp.toNat) ∧
    (1 ≤ (0xF : Nibble).toNat ∧ (0xF : Nibble).toNat = ({ State.reset with sp := 15 } : State).sp.toNat) ∧
    State.reset.sp = 0 ∧ 15 < ({ State.reset with sp := 16 } : State).sp.toNat := by decide

theorem witness_CallThenReturnRoundTrip : ({ State.reset with sp := 14 } : State).sp.toNat ≤ 14 ∧
    gives (exec (.call 0x300) { State.reset with sp := 14 }) (fun t =>
      gives (exec .ret t) fun u => u.pc == 0x0202 && u.sp == 14) = true := by decide

theorem witness_SkipOnRegisters : fieldOp 0x9121 = 0x9 ∧ fieldN 0x9121 ≠ 0x0 ∧ fieldOp 0x512F = 0x5 ∧
    fieldN 0x512F ≠ 0x0 := by decide

theorem witness_AddSetsCarry : (0xE : Nibble) ≠ 0xF := by decide
theorem witness_SubtractFlagIsStrict : (0xE : Nibble) ≠ 0xF := by decide
theorem witness_ShiftsMoveOneBit : (0xE : Nibble) ≠ 0xF := by decide
theorem witness_RandomByteIsMasked : (0x0F : Byte).getLsbD 7 = false := by decide

theorem witness_BcdStoresThreeDigits : State.reset.mem.wf = true ∧
    ({ State.reset with i := 4093 } : State).i.toNat + 2 ≤ 4095 := by decide

theorem witness_StoreWritesRegistersToMemory : (put 0x300 [1, 2] State.reset).mem.wf = true ∧
    ({ State.reset with i := 4080 } : State).i.toNat + (0xF : Nibble).toNat ≤ 4095 := by decide

theorem witness_LoadReadsRegistersFromMemory :
    ({ State.reset with i := 4093 } : State).i.toNat + (0x2 : Nibble).toNat ≤ 4095 ∧
    (0x2 : Nibble).toNat ≤ (0x2 : Nibble).toNat ∧ (0x2 : Nibble).toNat < (0x3 : Nibble).toNat := by decide

theorem witness_TransferPastTheEndFaults :
    4095 < ({ State.reset with i := 4094 } : State).i.toNat + 2 ∧
    4095 < ({ State.reset with i := 4095 } : State).i.toNat + (0x1 : Nibble).toNat ∧
    4095 < ({ State.reset with i := 4096 } : State).i.toNat + (0x0 : Nibble).toNat := by decide

theorem witness_StoreThenLoadRestoresRegisters :
    State.reset.mem.wf = true ∧ ({ State.reset with i := 4094 } : State).i.toNat + (0x1 : Nibble).toNat ≤ 4095 ∧
    gives (exec (.ldMemIVx 0x1) (({ State.reset with i := 4094 }.setReg 0x0 7).setReg 0x1 9)) (fun t =>
      gives (exec (.ldVxMemI 0x1) (t.setReg 0x0 0)) fun u => u.reg 0x0 == 7 && u.reg 0x1 == 9) = true := by decide

-- V44-23 with two bytes
theorem witness_StoreIsSeenByTheNextFetch :
    let s := ({ State.reset with i := 0x0202 }.setReg 0x0 0x12).setReg 0x1 0x34
    s.mem.wf = true ∧ s.i.toNat + (0x1 : Nibble).toNat ≤ 4095 ∧ (0x1 : Nibble).toNat = (0x0 : Nibble).toNat + 1 ∧
      (0x1 : Nibble).toNat ≤ (0x1 : Nibble).toNat ∧ (s.pc + 2).toNat = s.i.toNat + (0x0 : Nibble).toNat ∧
      gives (exec (.ldMemIVx 0x1) s) (fun t => t.fetch == some 0x1234) = true := by decide

-- the last legal sprite, a sprite of no rows at any I, and the first one past the end
theorem witness_DrawXorsTheSprite :
    ({ State.reset with i := 4095 } : State).i.toNat + ((0x1 : Nibble).toNat - 1) ≤ 4095 ∧
    gives (exec (.drw 0x0 0x1 0x0) { State.reset with i := 0xFFFF }) (fun t => t.fault == none) = true ∧
    1 ≤ (0x2 : Nibble).toNat ∧ 4095 < ({ State.reset with i := 4095 } : State).i.toNat + ((0x2 : Nibble).toNat - 1) := by
  decide

-- S6a and S6b with the glyph at 0x050; V2 and V3 name the same place for the second draw
theorem witness_DrawTwiceRestoresTheScreen :
    (∀ px py, pixel ({ State.reset with i := 0x0050 } : State).fb px py = false) ∧
    gives (exec (.drw 0x0 0x1 0x5) { State.reset with i := 0x0050 }) (fun t =>
      t.reg 0x2 == 0 && t.reg 0x3 == 0 && t.reg 0xF == 0x00 &&
      gives (exec (.drw 0x2 0x3 0x5) t) fun u => u.fb == State.reset.fb && u.reg 0xF == 0x01) = true := by
  refine ⟨fun px py => ?_, by decide⟩
  simp [pixel, State.reset]

theorem witness_KeyTestSkipsOrFaults :
    (0xF : Nibble).toNat = ((State.reset.setReg 0x1 0x0F).reg 0x1).toNat ∧
    15 < ((State.reset.setReg 0x1 0x10).reg 0x1).toNat := by decide

theorem witness_KeyWaitTakesTheLeastKey :
    let s := setPressed 0x9 true (setPressed 0x7 true State.reset)
    (s.key 0x7 = true ∧ ∀ j : Nibble, j.toNat < (0x7 : Nibble).toNat → s.key j = false) ∧
    (∀ k : Nibble, State.reset.key k = false) := by decide

theorem witness_TimersRiseOnlyWhenWritten :
    gives (event .cycle ((word 0xF115).setReg 0x1 0x07)) (fun t => decide (State.reset.dt.toNat < t.dt.toNat)) = true ∧
    gives (event (.writeSt 0x09) State.reset) (fun t => decide (State.reset.st.toNat < t.st.toNat)) = true := by decide

theorem witness_LoadWritesTheProgramRegion : State.reset.mem.wf = true ∧
    (List.replicate 3584 (0x00 : Byte)).length ≤ 3584 ∧ 3584 < (List.replicate 3585 (0x00 : Byte)).length :=
  ⟨rfl, by rw [List.length_replicate], by rw [List.length_replicate]; omega⟩

theorem witness_HostAccessIsBounded : State.reset.mem.wf = true ∧ 4095 ≤ 4095 ∧ 4095 < 4096 ∧
    (0x0F : Byte).toNat ≤ 15 ∧ 15 < (0x10 : Byte).toNat ∧
    isRefused (event (.writeByte 4096 0x01) State.reset) (.hostAddressOutOfBounds 4096) = true := by decide

theorem witness_ResetLeavesTheListedValues : (79 : Nat) < 80 ∧ (0x04F < 0x050 ∨ 0x0A0 ≤ 0x04F) ∧
    (0x0A0 < 0x050 ∨ 0x0A0 ≤ 0x0A0) := by decide

end Sys2Proof.Tests
end

section
/-! PROOFS. One frame for every instruction: what `exec` may change besides pc and the latch, as a table over the
instructions, and what that table tells of the instruction from what changed (spec/00_scope.md R12, decision D19). -/

namespace Sys2Proof.Machine

/-! ## Frames built up: one rule per update of the state -/

section FrameRules
variable {c : MayChange} {s t : State}

theorem Frame.refl (c : MayChange) (s : State) : Frame c s s := by simp [Frame]

/-- pc is outside every frame. -/
theorem Frame.withPc (h : Frame c s t) (w : Word) : Frame c s { t with pc := w } := h

theorem Frame.advance (h : Frame c s t) (n : Word) : Frame c s (t.advance n) := h.withPc _

theorem Frame.skipIf (h : Frame c s t) (p : Bool) : Frame c s (t.skipIf p) := by
  rw [State.skipIf_eq]
  exact h.advance _

theorem Frame.setReg (h : Frame c s t) {x : Nibble} (hx : x ∈ c.regs) (b : Byte) : Frame c s (t.setReg x b) := by
  obtain ⟨hreg, hrest⟩ := h
  refine ⟨fun r hr => ?_, hrest⟩
  have hne : r ≠ x := fun e => hr (e ▸ hx)
  rw [State.reg_setReg_of_ne t b hne, hreg r hr]

theorem Frame.putResult (h : Frame c s t) {x : Nibble} (hx : x ∈ c.regs) (b : Byte) :
    Frame c s (t.putResult x b) := (h.setReg hx b).advance 2

theorem Frame.putFlagResult (h : Frame c s t) {x : Nibble} (hx : x ∈ c.regs) (hvf : vf ∈ c.regs) (f b : Byte) :
    Frame c s (t.putFlagResult x f b) := (h.setReg hvf f).putResult hx b

theorem Frame.withI (h : Frame c s t) (hc : c.i = true) (w : Word) : Frame c s { t with i := w } := by
  obtain ⟨hreg, -, hrest⟩ := h
  exact ⟨hreg, by simp [hc], hrest⟩

theorem Frame.withSp (h : Frame c s t) (hc : c.sp = true) (b : Byte) : Frame c s { t with sp := b } := by
  obtain ⟨hreg, hi, -, hrest⟩ := h
  exact ⟨hreg, hi, by simp [hc], hrest⟩

theorem Frame.setSlot (h : Frame c s t) {k : Nibble} (hk : k ∈ c.slots) (w : Word) : Frame c s (t.setSlot k w) := by
  obtain ⟨hreg, hi, hsp, hslot, hrest⟩ := h
  refine ⟨hreg, hi, hsp, fun q hq => ?_, hrest⟩
  have hne : q ≠ k := fun e => hq (e ▸ hk)
  rw [State.slot_setSlot, if_neg hne, hslot q hq]

theorem Frame.withDt (h : Frame c s t) (hc : c.dt = true) (b : Byte) : Frame c s { t with dt := b } := by
  obtain ⟨hreg, hi, hsp, hslot, -, hrest⟩ := h
  exact ⟨hreg, hi, hsp, hslot, by simp [hc], hrest⟩

theorem Frame.withSt (h : Frame c s t) (hc : c.st = true) (b : Byte) : Frame c s { t with st := b } := by
  obtain ⟨hreg, hi, hsp, hslot, hdt, -, hrest⟩ := h
  exact ⟨hreg, hi, hsp, hslot, hdt, by simp [hc], hrest⟩

theorem Frame.setScreen (h : Frame c s t) (hc : c.screen = true) (fb : Framebuffer) : Frame c s (t.setScreen fb) := by
  obtain ⟨hreg, hi, hsp, hslot, hdt, hst, -, hrest⟩ := h
  exact ⟨hreg, hi, hsp, hslot, hdt, hst, by simp [hc], hrest⟩

/-- A store whose bytes all lie in the range that the frame leaves free. -/
theorem Frame.storeAtI (h : Frame c s t) {bytes : List Byte} (hlow : c.storeAt = t.i.toNat)
    (hlen : c.stored = bytes.length) : Frame c s (t.storeAtI bytes) := by
  obtain ⟨hreg, hi, hsp, hslot, hdt, hst, hfb, hmem, hrest⟩ := h
  refine ⟨hreg, hi, hsp, hslot, hdt, hst, hfb, fun a ha => ?_, hrest⟩
  have hout : a < t.i.toNat ∨ t.i.toNat + bytes.length ≤ a := by rwa [hlow, hlen] at ha
  rw [State.storeAtI_mem, Memory.read_writeBytes_of_out _ _ hout, hmem a ha]

theorem Frame.loadAtI (h : Frame c s t) {x : Nibble} (hx : ∀ r : Nibble, r.toNat ≤ x.toNat → r ∈ c.regs) :
    Frame c s (t.loadAtI x) := by
  obtain ⟨hreg, hrest⟩ := h
  refine ⟨fun r hr => ?_, hrest⟩
  rw [State.reg_loadAtI, if_neg (mt (hx r) hr), hreg r hr]

theorem Frame.drawRandom (h : Frame c s t) (hc : c.draws = true) : Frame c s t.drawRandom.2 := by
  obtain ⟨hreg, hi, hsp, hslot, hdt, hst, hfb, hmem, hfault, hkeys, hpolicy, hfont, -⟩ := h
  exact ⟨hreg, hi, hsp, hslot, hdt, hst, hfb, hmem, hfault, hkeys, hpolicy, hfont, by simp [hc]⟩

end FrameRules

/-! ## What an answer keeps -/

/-- The answer `r` from `s` is, where it is a next state, either a fault taken on `s` or a state that changed only pc
and what `c` names. -/
def Keeps (c : MayChange) (s : State) (r : Result) : Prop :=
  ∀ t, r = .next t → (∃ cause info, t = takeFault cause info s) ∨ Frame c s t

/-- What an attempt must keep is asked only of the state it is done with: a raise discards it, a stop has none. -/
theorem keeps_settle {c : MayChange} {s : State} {a : Attempt} (h : ∀ t, a = .done t → Frame c s t) :
    Keeps c s (settle s a) := by
  intro t ht
  rcases settle_next ht with hdone | ⟨cause, info, -, rfl⟩
  · exact .inr (h t hdone)
  · exact .inl ⟨cause, info, rfl⟩

theorem keeps_done {c : MayChange} {s t : State} (h : Frame c s t) : Keeps c s (settle s (.done t)) :=
  keeps_settle fun _ hdone => Attempt.done.inj hdone ▸ h

theorem keeps_checkedTransfer {c : MayChange} {s t : State} (length : Nat) (h : Frame c s t) :
    Keeps c s (settle s (s.checkedTransfer length t)) := by
  rcases s.checkedTransfer_cases length t with ⟨-, -, hraised⟩ | ⟨-, hdone⟩
  · rw [hraised]
    exact keeps_settle nofun
  · rw [hdone]
    exact keeps_done h

theorem keeps_keySkip (s : State) (x : Nibble) (wanted : Bool) : Keeps {} s (settle s (s.keySkip x wanted)) := by
  unfold State.keySkip
  split
  · exact keeps_settle nofun
  · exact keeps_done ((Frame.refl _ s).skipIf _)

/-- Where a call pushes: the slot above SP (R101). -/
def State.pushSlot (s : State) : Nibble := (s.sp + 1).setWidth 4

theorem keeps_callTo (target : Word) (s : State) :
    Keeps { sp := true, slots := [s.pushSlot] } s (settle s (callTo target s)) := by
  rcases callTo_cases target s with ⟨-, hraised⟩ | ⟨-, hdone⟩
  · rw [hraised]
    exact keeps_settle nofun
  · rw [hdone]
    have pushed : Frame { sp := true, slots := [s.pushSlot] } s (s.setSlot s.pushSlot s.pc) :=
      (Frame.refl _ s).setSlot (List.mem_singleton_self _) s.pc
    exact keeps_done ((pushed.withSp rfl (s.sp + 1)).withPc target)

theorem keeps_execRet (s : State) : Keeps { sp := true } s (execRet s) := by
  unfold execRet
  rcases returnFrom_cases s with ⟨-, hraised⟩ | ⟨-, hstuck⟩ | ⟨-, -, hdone⟩
  · rw [hraised]
    exact keeps_settle nofun
  · rw [hstuck]
    exact keeps_settle nofun
  · rw [hdone]
    exact keeps_done ((((Frame.refl _ s).withPc _).withSp rfl _).advance 2)

theorem keeps_execLdVxK (x : Nibble) (s : State) : Keeps { regs := [x] } s (execLdVxK x s) := by
  unfold execLdVxK
  split
  · exact keeps_done ((Frame.refl _ s).putResult (List.mem_singleton_self x) _)
  · exact keeps_done (Frame.refl _ s)

/-! ## The frame of every instruction -/

/-- The registers up to x, the range of Fx65. -/
theorem mem_registersUpTo (x r : Nibble) :
    r ∈ (List.range (x.toNat + 1)).map (BitVec.ofNat 4) ↔ r.toNat ≤ x.toNat := by
  have hx : x.toNat < 16 := x.isLt
  simp only [List.mem_map, List.mem_range]
  constructor
  · rintro ⟨k, hk, rfl⟩
    rw [BitVec.toNat_ofNat]
    omega
  · intro hr
    exact ⟨r.toNat, by omega, by simp⟩

/-- What an instruction may change besides pc and the latch (R12). -/
def mayChange (i : Instr) (s : State) : MayChange :=
  match i with
  | .cls => { screen := true }
  | .ret => { sp := true }
  | .call _ => { sp := true, slots := [s.pushSlot] }
  | .ldVxKk x _ | .addVxKk x _ | .ldVxVy x _ | .orVxVy x _ | .andVxVy x _ | .xorVxVy x _ => { regs := [x] }
  | .addVxVy x _ | .subVxVy x _ | .shrVx x _ | .subnVxVy x _ | .shlVx x _ => { regs := [x, vf] }
  | .ldINnn _ | .addIVx _ | .ldFVx _ => { i := true }
  | .rndVxKk x _ => { regs := [x], draws := true }
  | .drw _ _ _ => { regs := [vf], screen := true }
  | .ldVxDt x | .ldVxK x => { regs := [x] }
  | .ldDtVx _ => { dt := true }
  | .ldStVx _ => { st := true }
  | .ldBVx _ => { storeAt := s.i.toNat, stored := 3 }
  | .ldMemIVx x => { storeAt := s.i.toNat, stored := x.toNat + 1 }
  | .ldVxMemI x => { regs := (List.range (x.toNat + 1)).map (BitVec.ofNat 4) }
  | .jp _ | .jpV0 _ | .seVxKk _ _ | .sneVxKk _ _ | .seVxVy _ _ | .sneVxVy _ _ | .skp _ | .sknp _ => {}

/-- Every instruction stays inside its row of `mayChange`. -/
theorem exec_keeps_mayChange (i : Instr) (s : State) : Keeps (mayChange i s) s (exec i s) := by
  have start := Frame.refl (mayChange i s) s
  cases i with
  | cls => exact keeps_done ((start.setScreen rfl _).advance 2)
  | ret => exact keeps_execRet s
  | jp nnn => exact keeps_done (start.withPc _)
  | call nnn => exact keeps_callTo _ s
  | seVxKk x kk => exact keeps_done (start.skipIf _)
  | sneVxKk x kk => exact keeps_done (start.skipIf _)
  | seVxVy x y => exact keeps_done (start.skipIf _)
  | ldVxKk x kk => exact keeps_done (start.putResult (List.mem_singleton_self x) _)
  | addVxKk x kk => exact keeps_done (start.putResult (List.mem_singleton_self x) _)
  | ldVxVy x y => exact keeps_done (start.putResult (List.mem_singleton_self x) _)
  | orVxVy x y => exact keeps_done (start.putResult (List.mem_singleton_self x) _)
  | andVxVy x y => exact keeps_done (start.putResult (List.mem_singleton_self x) _)
  | xorVxVy x y => exact keeps_done (start.putResult (List.mem_singleton_self x) _)
  | addVxVy x y => exact keeps_done (start.putFlagResult (by simp [mayChange]) (by simp [mayChange]) _ _)
  | subVxVy x y => exact keeps_done (start.putFlagResult (by simp [mayChange]) (by simp [mayChange]) _ _)
  | shrVx x y => exact keeps_done (start.putFlagResult (by simp [mayChange]) (by simp [mayChange]) _ _)
  | subnVxVy x y => exact keeps_done (start.putFlagResult (by simp [mayChange]) (by simp [mayChange]) _ _)
  | shlVx x y => exact keeps_done (start.putFlagResult (by simp [mayChange]) (by simp [mayChange]) _ _)
  | sneVxVy x y => exact keeps_done (start.skipIf _)
  | ldINnn nnn => exact keeps_done ((start.withI rfl _).advance 2)
  | jpV0 nnn => exact keeps_done (start.withPc _)
  | rndVxKk x kk => exact keeps_done ((start.drawRandom rfl).putResult (List.mem_singleton_self x) _)
  | drw x y n =>
    exact keeps_checkedTransfer _ (((start.setScreen rfl _).setReg (List.mem_singleton_self vf) _).advance 2)
  | skp x => exact keeps_keySkip s x true
  | sknp x => exact keeps_keySkip s x false
  | ldVxDt x => exact keeps_done (start.putResult (List.mem_singleton_self x) _)
  | ldVxK x => exact keeps_execLdVxK x s
  | ldDtVx x => exact keeps_done ((start.withDt rfl _).advance 2)
  | ldStVx x => exact keeps_done ((start.withSt rfl _).advance 2)
  | addIVx x => exact keeps_done ((start.withI rfl _).advance 2)
  | ldFVx x => exact keeps_done ((start.withI rfl _).advance 2)
  | ldBVx x => exact keeps_checkedTransfer _ ((start.storeAtI rfl (length_bcdDigits _).symm).advance 2)
  | ldMemIVx x => exact keeps_checkedTransfer _ ((start.storeAtI rfl (s.length_regsUpTo x).symm).advance 2)
  | ldVxMemI x =>
    exact keeps_checkedTransfer _ ((start.loadAtI fun r => (mem_registersUpTo x r).2).advance 2)

/-- With the latch put aside, a faulting instruction stays inside its frame too: it changes nothing else (R176). -/
theorem exec_frame_latchAside {i : Instr} {s t : State} (h : exec i s = .next t) :
    Frame (mayChange i s) s { t with fault := s.fault } := by
  rcases exec_keeps_mayChange i s t h with ⟨cause, info, rfl⟩ | hframe
  · exact Frame.refl _ s
  · obtain ⟨hreg, hi, hsp, hslot, hdt, hst, hfb, hmem, -, hrest⟩ := hframe
    exact ⟨hreg, hi, hsp, hslot, hdt, hst, hfb, hmem, rfl, hrest⟩

/-! ## The table read backwards: which instructions a row permits to change a field -/

section MayChangeInversion
variable {i : Instr} {s : State}

theorem instr_of_mayChange_i (h : (mayChange i s).i ≠ false) :
    (∃ nnn, i = .ldINnn nnn) ∨ (∃ x, i = .addIVx x) ∨ (∃ x, i = .ldFVx x) := by
  cases i with
  | ldINnn nnn => exact .inl ⟨nnn, rfl⟩
  | addIVx x => exact .inr (.inl ⟨x, rfl⟩)
  | ldFVx x => exact .inr (.inr ⟨x, rfl⟩)
  | _ => exact absurd rfl h

theorem instr_of_mayChange_stored (h : (mayChange i s).stored ≠ 0) :
    (∃ x, i = .ldBVx x) ∨ (∃ x, i = .ldMemIVx x) := by
  cases i with
  | ldBVx x => exact .inl ⟨x, rfl⟩
  | ldMemIVx x => exact .inr ⟨x, rfl⟩
  | _ => exact absurd rfl h

theorem instr_of_mayChange_screen (h : (mayChange i s).screen ≠ false) : i = .cls ∨ ∃ a b n, i = .drw a b n := by
  cases i with
  | cls => exact .inl rfl
  | drw a b n => exact .inr ⟨a, b, n, rfl⟩
  | _ => exact absurd rfl h

theorem instr_of_mayChange_sp (h : (mayChange i s).sp ≠ false) : i = .ret ∨ ∃ nnn, i = .call nnn := by
  cases i with
  | ret => exact .inl rfl
  | call nnn => exact .inr ⟨nnn, rfl⟩
  | _ => exact absurd rfl h

theorem instr_of_mem_mayChange_slots {k : Nibble} (h : k ∈ (mayChange i s).slots) : ∃ nnn, i = .call nnn := by
  cases i with
  | call nnn => exact ⟨nnn, rfl⟩
  | _ => exact absurd h List.not_mem_nil

theorem instr_of_mayChange_dt (h : (mayChange i s).dt ≠ false) : ∃ x, i = .ldDtVx x := by
  cases i with
  | ldDtVx x => exact ⟨x, rfl⟩
  | _ => exact absurd rfl h

theorem instr_of_mayChange_st (h : (mayChange i s).st ≠ false) : ∃ x, i = .ldStVx x := by
  cases i with
  | ldStVx x => exact ⟨x, rfl⟩
  | _ => exact absurd rfl h

theorem instr_of_mayChange_draws (h : (mayChange i s).draws ≠ false) : ∃ x kk, i = .rndVxKk x kk := by
  cases i with
  | rndVxKk x kk => exact ⟨x, kk, rfl⟩
  | _ => exact absurd rfl h

/-- Only x = 0xF puts VF in the range of Fx65. -/
theorem eq_vf_of_vf_mem_registersUpTo {x : Nibble} (h : vf ∈ (List.range (x.toNat + 1)).map (BitVec.ofNat 4)) :
    x = 0xF := by
  have hx : x.toNat < 16 := x.isLt
  have hle : 15 ≤ x.toNat := (mem_registersUpTo x vf).1 h
  exact BitVec.eq_of_toNat_eq (show x.toNat = 15 by omega)

/-- VF is written as a flag (R21), as the one destination, or in the range of Fx65. -/
theorem instr_of_vf_mem_mayChange_regs (h : vf ∈ (mayChange i s).regs) :
    (∃ x y, i = .addVxVy x y ∨ i = .subVxVy x y ∨ i = .subnVxVy x y ∨ i = .shrVx x y ∨ i = .shlVx x y) ∨
    (∃ x y n, i = .drw x y n) ∨
    (∃ y kk, i = .ldVxKk 0xF kk ∨ i = .addVxKk 0xF kk ∨ i = .rndVxKk 0xF kk ∨ i = .ldVxVy 0xF y ∨
      i = .orVxVy 0xF y ∨ i = .andVxVy 0xF y ∨ i = .xorVxVy 0xF y) ∨
    i = .ldVxDt 0xF ∨ i = .ldVxK 0xF ∨ i = .ldVxMemI 0xF := by
  cases i with
  | addVxVy x y | subVxVy x y | subnVxVy x y | shrVx x y | shlVx x y => exact .inl ⟨x, y, by simp⟩
  | drw x y n => exact .inr (.inl ⟨x, y, n, rfl⟩)
  | ldVxKk x kk | addVxKk x kk | rndVxKk x kk =>
    obtain rfl := List.mem_singleton.1 h
    exact .inr (.inr (.inl ⟨0x0, kk, by simp [vf]⟩))
  | ldVxVy x y | orVxVy x y | andVxVy x y | xorVxVy x y =>
    obtain rfl := List.mem_singleton.1 h
    exact .inr (.inr (.inl ⟨y, 0x00, by simp [vf]⟩))
  | ldVxDt x | ldVxK x =>
    obtain rfl := List.mem_singleton.1 h
    simp [vf]
  | ldVxMemI x =>
    obtain rfl := eq_vf_of_vf_mem_registersUpTo h
    simp
  | _ => exact absurd h List.not_mem_nil

end MayChangeInversion

/-- Settles O24: a changed field lies outside what the frame of the instruction keeps, so the row of `mayChange` names
it, and the table read backwards gives the instruction. -/
theorem changesNameTheInstruction : Obligations.ChangesNameTheInstruction := by
  intro i s t h
  obtain ⟨hreg, hi, hsp, hslot, hdt, hst, hfb, hmem, -, hkeys, hpolicy, hfont, hdraws⟩ := exec_frame_latchAside h
  have hbyte (a : Nat) (hne : t.mem.read a ≠ s.mem.read a) : (mayChange i s).stored ≠ 0 := by
    intro hnone
    exact hne (hmem a (by omega))
  have hpixel (x : Fin 64) (y : Fin 32) (hne : pixel t.fb x y ≠ pixel s.fb x y) : (mayChange i s).screen ≠ false :=
    fun hkept => hne (hfb hkept x y)
  exact ⟨fun hne => instr_of_mayChange_i (mt hi hne),
    fun a hne => instr_of_mayChange_stored (hbyte a hne),
    fun x y hne => instr_of_mayChange_screen (hpixel x y hne),
    fun hne => instr_of_mayChange_sp (mt hsp hne),
    fun k hne => instr_of_mem_mayChange_slots (not_not.1 (mt (hslot k) hne)),
    fun hne => instr_of_mayChange_dt (mt hdt hne),
    fun hne => instr_of_mayChange_st (mt hst hne),
    fun hne => instr_of_mayChange_draws (mt hdraws hne),
    hkeys, hpolicy, hfont,
    fun hne => instr_of_vf_mem_mayChange_regs (not_not.1 (mt (hreg vf) hne))⟩

end Sys2Proof.Machine
end

section
/-! PROOFS. What one Cycle can do to pc, the stack, memory and the latch, said once: an inversion lemma for `exec` and
one for `step`, and from them the two invariants and the rule of the written stack slot. -/

namespace Sys2Proof.Machine

/-! ## The step, case by case (spec/70_reset_and_hazards.md R201) -/

section StepEquations
variable {s : State} {w : Word}

theorem step_of_latched {f : FaultRecord} (hf : s.fault = some f) : step s = .next s := by
  simp [step, cycle, hf]

theorem step_of_pc_past_end (hclear : s.fault = none) (hpc : 0xFFE < s.pc.toNat) :
    step s = .next (takeFault .fetchOutOfBounds s.pc.toNat s) := by
  simp [step, cycle, hclear, s.fetch_eq_none.2 hpc]

theorem step_of_instr {i : Instr} (hclear : s.fault = none) (hfetch : s.fetch = some w)
    (hdecode : decodeWord w = .instr i) : step s = exec i s := by
  simp [step, cycle, hclear, hfetch, hdecode]

theorem step_of_unmatched {w' : Word} (hclear : s.fault = none) (hfetch : s.fetch = some w)
    (hdecode : decodeWord w = .unmatched w') : step s = execUnmatched w' s := by
  simp [step, cycle, hclear, hfetch, hdecode]

theorem execUnmatched_of_nop (w : Word) (hpolicy : s.policy = .nop) : execUnmatched w s = .next (s.advance 2) := by
  simp [execUnmatched, hpolicy]

theorem execUnmatched_of_fault (w : Word) (hpolicy : s.policy = .fault) :
    execUnmatched w s = .next (takeFault .decodeError w.toNat s) := by
  simp [execUnmatched, hpolicy]

end StepEquations

/-- Everything a step that answers `t` from `s` can have been: frozen by the latch, a fetch past the end of memory, an
instruction, or an unmatched word under one of the two policies. -/
inductive StepCase (s t : State) : Prop
  | frozen {f : FaultRecord} (hf : s.fault = some f) (ht : t = s)
  | fetchFault (hclear : s.fault = none) (hpc : 0xFFE < s.pc.toNat)
      (ht : t = takeFault .fetchOutOfBounds s.pc.toNat s)
  | instr {w : Word} {i : Instr} (hclear : s.fault = none) (hpc : s.pc.toNat ≤ 0xFFE) (hfetch : s.fetch = some w)
      (hdecode : decodeWord w = .instr i) (hexec : exec i s = .next t)
  | unmatchedNop {w : Word} (hclear : s.fault = none) (hpc : s.pc.toNat ≤ 0xFFE) (hfetch : s.fetch = some w)
      (hdecode : decodeWord w = .unmatched w) (hpolicy : s.policy = .nop) (ht : t = s.advance 2)
  | unmatchedFault {w : Word} (hclear : s.fault = none) (hfetch : s.fetch = some w)
      (hdecode : decodeWord w = .unmatched w) (hpolicy : s.policy = .fault)
      (ht : t = takeFault .decodeError w.toNat s)

theorem step_cases {s t : State} (h : step s = .next t) : StepCase s t := by
  cases hf : s.fault with
  | some f =>
    rw [step_of_latched hf] at h
    exact .frozen hf (Host.Outcome.next.inj h).symm
  | none =>
    cases hfetch : s.fetch with
    | none =>
      have hpc := s.fetch_eq_none.1 hfetch
      rw [step_of_pc_past_end hf hpc] at h
      exact .fetchFault hf hpc (Host.Outcome.next.inj h).symm
    | some w =>
      obtain ⟨hpc, -⟩ := State.fetch_eq_some hfetch
      cases hdecode : decodeWord w with
      | instr i =>
        rw [step_of_instr hf hfetch hdecode] at h
        exact .instr hf hpc hfetch hdecode h
      | unmatched w' =>
        rw [step_of_unmatched hf hfetch hdecode] at h
        obtain rfl := decodeWord_unmatched hdecode
        cases hpolicy : s.policy with
        | nop =>
          rw [execUnmatched_of_nop _ hpolicy] at h
          exact .unmatchedNop hf hpc hfetch hdecode hpolicy (Host.Outcome.next.inj h).symm
        | fault =>
          rw [execUnmatched_of_fault _ hpolicy] at h
          exact .unmatchedFault hf hfetch hdecode hpolicy (Host.Outcome.next.inj h).symm

/-! ## What an instruction can raise (spec/60_exceptions.md R170) -/

/-- How many bytes an instruction transfers at I (R143 to R145, R152). -/
def transferLength : Instr → Nat
  | .drw _ _ n => n.toNat
  | .ldBVx _ => 3
  | .ldMemIVx x | .ldVxMemI x => x.toNat + 1
  | _ => 0

/-- The instruction `i` raises this cause with this info in `s`: the condition of R170, R172 to R174 and R179. -/
inductive Raises (s : State) : Instr → FaultCause → Nat → Prop
  | transfer {i : Instr} (hsome : 1 ≤ transferLength i) (hend : 4096 < s.i.toNat + transferLength i) :
      Raises s i .outOfBounds (max s.i.toNat 4096)
  | overflow {nnn : Addr12} (hsp : 15 ≤ s.sp.toNat) : Raises s (.call nnn) .stackOverflow s.pc.toNat
  | underflow (hsp : s.sp.toNat = 0) : Raises s .ret .stackUnderflow s.pc.toNat
  | key {i : Instr} {x : Nibble} (hi : i = .skp x ∨ i = .sknp x) (hkey : 15 < (s.reg x).toNat) :
      Raises s i .keyIndexOutOfRange (s.reg x).toNat

/-! ## Jump targets (R79, R106) -/

theorem toNat_zextAddr (nnn : Addr12) : (zextAddr nnn).toNat = nnn.toNat :=
  BitVec.toNat_setWidth_of_le (by decide)

theorem toNat_zextAddr_le (nnn : Addr12) : (zextAddr nnn).toNat ≤ 0xFFF := by
  have hlt : nnn.toNat < 4096 := nnn.isLt
  rw [toNat_zextAddr]
  omega

/-- The largest sum of Bnnn (R106): no reduction to 12 bits, and none modulo 65536. -/
theorem toNat_zextByte_add_zextAddr_le (b : Byte) (nnn : Addr12) :
    (zextByte b + zextAddr nnn).toNat ≤ 0x10FE := by
  have hbyte : (zextByte b).toNat < 256 := by
    rw [zextByte, BitVec.toNat_setWidth_of_le (by decide)]
    exact b.isLt
  have haddr := toNat_zextAddr_le nnn
  rw [BitVec.toNat_add]
  omega

/-! ## What an instruction can do -/

/-- The stack, the latch and the policy are the same in `t` as in `s`, and memory is still canonical. -/
structure SameStackAndLatch (s t : State) : Prop where
  sp : t.sp = s.sp
  stk : t.stk = s.stk
  fault : t.fault = s.fault
  policy : t.policy = s.policy
  wf : s.mem.wf = true → t.mem.wf = true

/-- Everything `exec i s` can do to pc, the stack and the latch where it answers a next state: raise, move pc on by at
most 4 (R100, R110; by 0 while Fx0A waits), jump, call or return. Only a move can write memory, and keeps it
canonical. -/
inductive ExecEffect (i : Instr) (s : State) : State → Prop
  | raised {cause : FaultCause} {info : Nat} (h : Raises s i cause info) : ExecEffect i s (takeFault cause info s)
  | moved {t : State} (n : Word) (hn : n.toNat ≤ 4) (hsame : SameStackAndLatch s t) (hpc : t.pc = s.pc + n) :
      ExecEffect i s t
  | jumped {target : Word} (htarget : target.toNat ≤ 0x10FE) : ExecEffect i s { s with pc := target }
  | called {nnn : Addr12} (hi : i = .call nnn) (hsp : s.sp.toNat ≤ 14) :
      ExecEffect i s { (s.setSlot s.pushSlot s.pc) with sp := s.sp + 1, pc := zextAddr nnn }
  | returned (hi : i = .ret) (hsp : 1 ≤ s.sp.toNat) (hslot : s.sp.toNat ≤ 15) :
      ExecEffect i s { s with pc := s.slot (s.sp.setWidth 4) + 2, sp := s.sp - 1 }

section EffectRules
variable {i : Instr} {s t u : State}

theorem ExecEffect.of_done (h : settle s (.done u) = .next t) (hu : ExecEffect i s u) : ExecEffect i s t :=
  Host.Outcome.next.inj h ▸ hu

theorem ExecEffect.of_raised {cause : FaultCause} {info : Nat} (h : settle s (.raised cause info) = .next t)
    (hr : Raises s i cause info) : ExecEffect i s t :=
  Host.Outcome.next.inj h ▸ .raised hr

theorem ExecEffect.skipIf (s : State) (p : Bool) : ExecEffect i s (s.skipIf p) := by
  rw [State.skipIf_eq]
  exact .moved _ (by split <;> decide) ⟨rfl, rfl, rfl, rfl, id⟩ rfl

theorem ExecEffect.advance (hsame : SameStackAndLatch s u) (hpc : u.pc = s.pc) : ExecEffect i s (u.advance 2) :=
  .moved 2 (by decide) ⟨hsame.sp, hsame.stk, hsame.fault, hsame.policy, hsame.wf⟩ (congrArg (· + 2) hpc)

theorem ExecEffect.stored {bytes : List Byte} (hfits : s.i.toNat + bytes.length ≤ 4096) :
    ExecEffect i s ((s.storeAtI bytes).advance 2) :=
  .advance ⟨rfl, rfl, rfl, rfl, fun hwf => Memory.wf_writeBytes bytes hwf hfits⟩ rfl

theorem ExecEffect.loaded (s : State) (x : Nibble) : ExecEffect i s ((s.loadAtI x).advance 2) :=
  have hwf : s.mem.wf = true → (s.loadAtI x).mem.wf = true := by rw [State.loadAtI_mem]; exact id
  .advance ⟨s.loadAtI_sp x, s.loadAtI_stk x, s.loadAtI_fault x, s.loadAtI_policy x, hwf⟩ (s.loadAtI_pc x)

/-- A transfer's effect is needed only where the whole range fits (R59). -/
theorem ExecEffect.of_checkedTransfer (h : settle s (s.checkedTransfer (transferLength i) u) = .next t)
    (hu : transferLength i = 0 ∨ s.i.toNat + transferLength i ≤ 4096 → ExecEffect i s u) : ExecEffect i s t := by
  rcases s.checkedTransfer_cases (transferLength i) u with ⟨hsome, hend, hraised⟩ | ⟨hfits, hdone⟩
  · rw [hraised] at h
    exact .of_raised h (.transfer hsome hend)
  · rw [hdone] at h
    exact .of_done h (hu hfits)

theorem ExecEffect.of_keySkip {x : Nibble} {wanted : Bool} (hi : i = .skp x ∨ i = .sknp x)
    (h : settle s (s.keySkip x wanted) = .next t) : ExecEffect i s t := by
  unfold State.keySkip at h
  split at h
  · next hkey => exact .of_raised h (.key hi hkey)
  · exact .of_done h (.skipIf s _)

theorem ExecEffect.of_execCall {nnn : Addr12} (h : execCall nnn s = .next t) : ExecEffect (.call nnn) s t := by
  unfold execCall at h
  rcases callTo_cases (zextAddr nnn) s with ⟨hsp, hraised⟩ | ⟨hsp, hdone⟩
  · rw [hraised] at h
    exact .of_raised h (.overflow hsp)
  · rw [hdone] at h
    exact .of_done h (.called rfl hsp)

theorem ExecEffect.of_execRet (h : execRet s = .next t) : ExecEffect .ret s t := by
  unfold execRet at h
  rcases returnFrom_cases s with ⟨hsp, hraised⟩ | ⟨-, hstuck⟩ | ⟨hsp, hslot, hdone⟩
  · rw [hraised] at h
    exact .of_raised h (.underflow hsp)
  · rw [hstuck] at h
    nomatch h
  · rw [hdone] at h
    exact .of_done h (.returned rfl hsp hslot)

theorem ExecEffect.of_execLdVxK {x : Nibble} (h : execLdVxK x s = .next t) : ExecEffect i s t := by
  unfold execLdVxK at h
  split at h
  · exact .of_done h (.advance ⟨rfl, rfl, rfl, rfl, id⟩ rfl)
  · exact .of_done h (.moved 0 (by decide) ⟨rfl, rfl, rfl, rfl, id⟩ (by simp))

theorem exec_effect (h : exec i s = .next t) : ExecEffect i s t := by
  cases i with
  | ret => exact .of_execRet h
  | call nnn => exact .of_execCall h
  | jp nnn => exact .of_done h (.jumped ((toNat_zextAddr_le nnn).trans (by decide)))
  | jpV0 nnn => exact .of_done h (.jumped (toNat_zextByte_add_zextAddr_le _ nnn))
  | seVxKk | sneVxKk | seVxVy | sneVxVy => exact .of_done h (.skipIf s _)
  | skp x => exact .of_keySkip (.inl rfl) h
  | sknp x => exact .of_keySkip (.inr rfl) h
  | ldVxK x => exact .of_execLdVxK h
  | drw x y n => exact .of_checkedTransfer h fun _ => .advance ⟨rfl, rfl, rfl, rfl, id⟩ rfl
  | ldVxMemI x => exact .of_checkedTransfer h fun _ => .loaded s x
  | ldBVx x =>
    exact .of_checkedTransfer h fun hfits => .stored (hfits.resolve_left (Nat.succ_ne_zero _))
  | ldMemIVx x =>
    exact .of_checkedTransfer h fun hfits => .stored (by
      rw [State.length_regsUpTo]
      exact hfits.resolve_left (Nat.succ_ne_zero _))
  | cls | ldVxKk | addVxKk | ldVxVy | orVxVy | andVxVy | xorVxVy | addVxVy | subVxVy | shrVx | subnVxVy | shlVx
  | ldINnn | rndVxKk | ldVxDt | ldDtVx | ldStVx | addIVx | ldFVx =>
    exact .of_done h (.advance ⟨rfl, rfl, rfl, rfl, id⟩ rfl)

end EffectRules

/-! ## The machine invariant (R28, R39, R50) -/

section Invariant
variable {i : Instr} {s t : State}

/-- What an executing instruction raises is what R170 allows: pc was fetched from, I and V[x] have their widths. -/
theorem Raises.latchLegal {cause : FaultCause} {info : Nat} (h : Raises s i cause info) (hpc : s.pc.toNat ≤ 0xFFE) :
    (takeFault cause info s).latchLegal = true := by
  cases h with
  | transfer hsome hend =>
    have hi : s.i.toNat < 65536 := s.i.isLt
    exact decide_eq_true (by omega)
  | overflow hsp => exact decide_eq_true hpc
  | underflow hsp => exact decide_eq_true hpc
  | @key _ x hi hkey =>
    have hreg : (s.reg x).toNat < 256 := (s.reg x).isLt
    exact decide_eq_true (by omega)

theorem latchLegal_fetchFault (hpc : 0xFFE < s.pc.toNat) :
    (takeFault .fetchOutOfBounds s.pc.toNat s).latchLegal = true := by
  have hlt : s.pc.toNat < 65536 := s.pc.isLt
  exact decide_eq_true (by omega)

theorem latchLegal_decodeFault {w : Word} (hdecode : decodeWord w = .unmatched w) (hpolicy : s.policy = .fault) :
    (takeFault .decodeError w.toNat s).latchLegal = true := by
  have hlt : w.toNat < 65536 := w.isLt
  have hinfo : w.toNat ≤ 0xFFFF := by omega
  simp [State.latchLegal, hpolicy, hdecode, hinfo]

theorem latchLegal_congr (hfault : t.fault = s.fault) (hpolicy : t.policy = s.policy) :
    t.latchLegal = s.latchLegal := by
  simp only [State.latchLegal, hfault, hpolicy]

theorem ExecEffect.keeps_inv (h : ExecEffect i s t) (hpc : s.pc.toNat ≤ 0xFFE) (hs : s.Inv) : t.Inv := by
  obtain ⟨hwf, hsp, hlegal⟩ := hs
  cases h with
  | raised hr => exact ⟨hwf, hsp, hr.latchLegal hpc⟩
  | moved n hn hsame =>
    exact ⟨hsame.wf hwf, hsame.sp ▸ hsp, (latchLegal_congr hsame.fault hsame.policy).trans hlegal⟩
  | jumped => exact ⟨hwf, hsp, hlegal⟩
  | called hi hroom =>
    have hinc : (s.sp + 1).toNat ≤ 15 := by bv_omega
    exact ⟨hwf, hinc, hlegal⟩
  | returned hi hpos hslot =>
    have hdec : (s.sp - 1).toNat ≤ 15 := by bv_omega
    exact ⟨hwf, hdec, hlegal⟩

end Invariant

/-- Settles O12: an executed instruction keeps the invariant by its effect, and of the other cases of a step only the
two faults change anything it speaks of, the latch. -/
theorem stepKeepsInvariant : Obligations.StepKeepsInvariant := by
  intro s t hs h
  have ⟨hwf, hsp, _⟩ := hs
  cases step_cases h with
  | frozen hf ht => exact ht ▸ hs
  | fetchFault hclear hpc ht => exact ht ▸ ⟨hwf, hsp, latchLegal_fetchFault hpc⟩
  | instr hclear hpc hfetch hdecode hexec => exact (exec_effect hexec).keeps_inv hpc hs
  | unmatchedNop hclear hpc hfetch hdecode hpolicy ht => exact ht ▸ hs
  | unmatchedFault hclear hfetch hdecode hpolicy ht =>
    exact ht ▸ ⟨hwf, hsp, latchLegal_decodeFault hdecode hpolicy⟩

/-! ## The bound on pc (R24, R25) -/

section PcBound
variable {i : Instr} {s t : State}

theorem toNat_pc_add_le {p n : Word} (hp : p.toNat ≤ 0xFFE) (hn : n.toNat ≤ 4) : (p + n).toNat ≤ 0x10FE := by
  rw [BitVec.toNat_add]
  omega

theorem ExecEffect.keeps_pcBounded (h : ExecEffect i s t) (hpc : s.pc.toNat ≤ 0xFFE) (hs : s.PcBounded) :
    t.PcBounded := by
  obtain ⟨hbound, hslots⟩ := hs
  cases h with
  | raised => exact ⟨hbound, hslots⟩
  | moved n hn hsame hnext =>
    refine ⟨hnext ▸ toNat_pc_add_le hpc hn, fun k => ?_⟩
    rw [State.slot_congr hsame.stk]
    exact hslots k
  | jumped htarget => exact ⟨htarget, hslots⟩
  | @called nnn =>
    refine ⟨(toNat_zextAddr_le nnn).trans (by decide), fun k => ?_⟩
    change ((s.setSlot s.pushSlot s.pc).slot k).toNat ≤ 0xFFE
    rw [State.slot_setSlot]
    split
    · exact hpc
    · exact hslots k
  | returned => exact ⟨toNat_pc_add_le (hslots _) (by decide), hslots⟩

end PcBound

/-- Settles O15: a cycle that executes has pc at most 0xFFE, from where no effect of an instruction and no advance goes
past 0x10FE, and a call pushes that pc; the other cycles leave pc and the stack alone. -/
theorem stepKeepsPcBound : Obligations.StepKeepsPcBound := by
  intro s t hs h
  have ⟨_, hslots⟩ := hs
  cases step_cases h with
  | frozen hf ht => exact ht ▸ hs
  | fetchFault hclear hpc ht => exact ht ▸ hs
  | instr hclear hpc hfetch hdecode hexec => exact (exec_effect hexec).keeps_pcBounded hpc hs
  | unmatchedNop hclear hpc hfetch hdecode hpolicy ht => exact ht ▸ ⟨toNat_pc_add_le hpc (by decide), hslots⟩
  | unmatchedFault hclear hfetch hdecode hpolicy ht => exact ht ▸ hs

/-! ## The written slot (R31, R32) -/

theorem State.toNat_pushSlot {s : State} (hsp : s.sp.toNat ≤ 14) : s.pushSlot.toNat = s.sp.toNat + 1 := by
  unfold State.pushSlot
  bv_omega

/-- Only a call changes a slot, and it changes the one above SP. -/
theorem ExecEffect.slot_changed {i : Instr} {s t : State} {k : Nibble} (h : ExecEffect i s t)
    (hne : t.slot k ≠ s.slot k) : (∃ nnn, i = .call nnn) ∧ k.toNat = s.sp.toNat + 1 ∧ t.sp = s.sp + 1 := by
  cases h with
  | raised => exact absurd rfl hne
  | moved n hn hsame => exact absurd (State.slot_congr hsame.stk k) hne
  | jumped => exact absurd rfl hne
  | @called nnn hi hsp =>
    have hk : k = s.pushSlot := by
      by_contra hother
      exact hne ((State.slot_setSlot s _ k _).trans (if_neg hother))
    exact ⟨⟨nnn, hi⟩, hk ▸ State.toNat_pushSlot hsp, rfl⟩
  | returned => exact absurd rfl hne

/-- Settles O25: a changed slot is the one above SP, and that is never slot 0. -/
theorem onlyTheSlotAboveSpIsWritten : Obligations.OnlyTheSlotAboveSpIsWritten := by
  intro i s t h
  refine ⟨?_, fun k hne => (exec_effect h).slot_changed hne⟩
  by_contra hne
  obtain ⟨-, hzero, -⟩ := (exec_effect h).slot_changed hne
  exact absurd hzero (Nat.succ_ne_zero _).symm

/-- Settles O19: from pc 0xFFF up there is no word to fetch (R25). -/
theorem fetchPastTheEndFaults : Obligations.FetchPastTheEndFaults := fun _ hclear hpc => step_of_pc_past_end hclear hpc

end Sys2Proof.Machine
end

section
/-! PROOFS. Memory as instructions and the host write it: a transfer that fits and one that does not, a store read back
by the fetch, Load, and the host's accesses (spec/20_memory.md). -/

namespace Sys2Proof.Machine

/-! ## Transfers through I, both outcomes (R59, R174) -/

section Transfers
variable {s : State}

theorem settle_checkedTransfer_of_pastEnd {length : Nat} (t : State) (hsome : 1 ≤ length)
    (hend : 4096 < s.i.toNat + length) :
    settle s (s.checkedTransfer length t) = .next (takeFault .outOfBounds (max s.i.toNat 4096) s) := by
  rcases s.checkedTransfer_cases length t with ⟨-, -, hraised⟩ | ⟨hfits, -⟩
  · rw [hraised, settle_raised]
  · omega

theorem settle_checkedTransfer_of_fits {length : Nat} (t : State) (hfits : s.i.toNat + length ≤ 4096) :
    settle s (s.checkedTransfer length t) = .next t := by
  rcases s.checkedTransfer_cases length t with ⟨-, hend, -⟩ | ⟨-, hdone⟩
  · omega
  · rw [hdone, settle_done]

theorem exec_ldMemIVx_of_fits {x : Nibble} (hfits : s.i.toNat + x.toNat ≤ 4095) :
    exec (.ldMemIVx x) s = .next ((s.storeAtI (s.regsUpTo x)).advance 2) :=
  settle_checkedTransfer_of_fits _ (Nat.succ_le_succ hfits)

theorem State.read_storeAtI_regsUpTo {x r : Nibble} (hwf : s.mem.wf = true) (hfits : s.i.toNat + x.toNat ≤ 4095)
    (hr : r.toNat ≤ x.toNat) : (s.storeAtI (s.regsUpTo x)).mem.read (s.i.toNat + r.toNat) = s.reg r := by
  have hlen := s.length_regsUpTo x
  have hroom : s.i.toNat + (s.regsUpTo x).length ≤ Config.memSize := by
    rw [hlen]
    exact Nat.succ_le_succ hfits
  have hlt : r.toNat < (s.regsUpTo x).length := by omega
  exact (Memory.read_writeBytes _ hwf hroom hlt).trans (s.getElem_regsUpTo x r hlt)

end Transfers

/-- Settles O46: each of the three ranges is not empty and ends above 4095. -/
theorem transferPastTheEndFaults : Obligations.TransferPastTheEndFaults := by
  intro x s
  refine ⟨fun hend => ?_, fun hend => ?_⟩
  · exact settle_checkedTransfer_of_pastEnd _ (by decide) (Nat.succ_lt_succ hend)
  · have hsome : 1 ≤ x.toNat + 1 := Nat.succ_pos _
    have hpast : 4096 < s.i.toNat + (x.toNat + 1) := Nat.succ_lt_succ hend
    exact ⟨settle_checkedTransfer_of_pastEnd _ hsome hpast, settle_checkedTransfer_of_pastEnd _ hsome hpast⟩

/-! ## Stored code (R54, R65) -/

theorem State.fetch_of_pc_le {s : State} (hpc : s.pc.toNat ≤ 0xFFE) :
    s.fetch = some (wordOfBytes (s.mem.read s.pc.toNat) (s.mem.read (s.pc.toNat + 1))) :=
  if_neg (Nat.not_lt.2 (Nat.succ_le_succ hpc))

/-- Settles O48: the store leaves V[r] and V[r+1] at the new pc and at the byte after it, and those two are what the
fetch reads. -/
theorem storeIsSeenByTheNextFetch : Obligations.StoreIsSeenByTheNextFetch := by
  intro x r q s hwf hfits hq hqx hpc
  refine ⟨_, exec_ldMemIVx_of_fits hfits, ?_⟩
  have hnext : ((s.storeAtI (s.regsUpTo x)).advance 2).pc.toNat = s.i.toNat + r.toNat := hpc
  have hlow : s.i.toNat + r.toNat + 1 = s.i.toNat + q.toNat := by omega
  rw [State.fetch_of_pc_le (by omega), hnext, hlow, State.advance_mem,
    State.read_storeAtI_regsUpTo hwf hfits (by omega), State.read_storeAtI_regsUpTo hwf hfits hqx]

/-! ## Load (R68, R69) -/

/-- Memory replaced by one that differs only where the frame leaves it free. -/
theorem Frame.withMem {c : MayChange} {s t : State} (h : Frame c s t) {m : Memory}
    (hm : ∀ a, (a < c.storeAt ∨ c.storeAt + c.stored ≤ a) → m.read a = t.mem.read a) :
    Frame c s { t with mem := m } := by
  obtain ⟨hreg, hi, hsp, hslot, hdt, hst, hfb, hmem, hrest⟩ := h
  exact ⟨hreg, hi, hsp, hslot, hdt, hst, hfb, fun a ha => (hm a ha).trans (hmem a ha), hrest⟩

theorem event_load_of_fits {bytes : List Byte} (s : State) (hfits : bytes.length ≤ 3584) :
    event (.load bytes) s = .next { s with mem := s.mem.writeBytes 0x200 bytes } :=
  if_neg (Nat.not_lt.2 hfits)

theorem event_load_of_tooLong {bytes : List Byte} (s : State) (hlong : 3584 < bytes.length) :
    event (.load bytes) s = .refused (.loadTooLong bytes.length) :=
  if_pos hlong

/-- Settles O58: up to 3584 bytes end at or below 4095, so the transfer from 0x200 leaves each in its place and no
other byte changed. -/
theorem loadWritesTheProgramRegion : Obligations.LoadWritesTheProgramRegion := by
  intro bytes s hwf
  refine ⟨fun hfits => ?_, event_load_of_tooLong s, event_load_of_fits s (Nat.zero_le _)⟩
  have hroom : 0x200 + bytes.length ≤ Config.memSize := Nat.add_le_add_left hfits 0x200
  exact ⟨_, event_load_of_fits s hfits, fun j hj => Memory.read_writeBytes bytes hwf hroom hj, rfl,
    (Frame.refl _ s).withMem fun _ hout => Memory.read_writeBytes_of_out _ bytes hout⟩

/-! ## Host accesses (R43, R70, R182) -/

section HostAccess
variable (s : State) {a : Nat} {b : Byte}

theorem hostReadByte_of_le (ha : a ≤ 4095) : hostReadByte a s = .next (s.mem.read a) :=
  if_neg (Nat.not_lt.2 ha)

theorem hostReadByte_of_gt (ha : 4095 < a) : hostReadByte a s = .refused (.hostAddressOutOfBounds a) :=
  if_pos ha

theorem event_writeByte_of_le (ha : a ≤ 4095) :
    event (.writeByte a b) s = .next { s with mem := s.mem.write a b } :=
  if_neg (Nat.not_lt.2 ha)

theorem event_writeByte_of_gt (ha : 4095 < a) :
    event (.writeByte a b) s = .refused (.hostAddressOutOfBounds a) :=
  if_pos ha

theorem event_writeSp_of_le (hb : b.toNat ≤ 15) : event (.writeSp b) s = .next { s with sp := b } :=
  if_neg (Nat.not_lt.2 hb)

theorem event_writeSp_of_gt (hb : 15 < b.toNat) :
    event (.writeSp b) s = .refused (.hostStackPointerOutOfRange b.toNat) :=
  if_pos hb

end HostAccess

/-- Settles O59: in range a host access is a read or a write of canonical memory, or a write of SP alone; out of range
it is refused before anything is touched. -/
theorem hostAccessIsBounded : Obligations.HostAccessIsBounded := by
  intro a b s hwf
  refine ⟨fun ha => ⟨hostReadByte_of_le s ha, _, event_writeByte_of_le s ha, ?_, rfl, ?_⟩,
    fun ha => ⟨hostReadByte_of_gt s ha, event_writeByte_of_gt s ha⟩,
    fun hb => ⟨_, event_writeSp_of_le s hb, rfl, rfl, (Frame.refl _ s).withSp rfl b⟩,
    event_writeSp_of_gt s⟩
  · rw [hostReadByte_of_le _ ha]
    exact congrArg _ (Memory.read_write_self hwf a b)
  · refine (Frame.refl _ s).withMem fun c hout => Memory.read_write_of_ne s.mem b ?_
    have hother : c < a ∨ a + 1 ≤ c := hout
    omega

end Sys2Proof.Machine
end

section
/-! PROOFS. The decoder and the encoder are inverse to each other (spec/30_encoding.md R82, R96), and what follows for
the match and mask table of R84 and for the unmatched words of R91. -/

namespace Sys2Proof

open Machine

/-! ## Decoding an encoded instruction -/

@[simp] theorem decodeWord_encode (i : Instr) : decodeWord (encode i) = .instr i := by
  cases i with
  | cls | ret => decide
  | jp | call | ldINnn | jpV0 => simp [encode, decodeWord]
  | seVxKk | sneVxKk | ldVxKk | addVxKk | rndVxKk | drw => simp [encode, decodeWord]
  | seVxVy => simp [encode, decodeWord_of_op5, decodeOp5]
  | ldVxVy | orVxVy | andVxVy | xorVxVy | addVxVy | subVxVy | shrVx | subnVxVy | shlVx =>
    simp [encode, decodeWord_of_op8, decodeOp8]
  | sneVxVy => simp [encode, decodeWord_of_op9, decodeOp9]
  | skp | sknp => simp [encode, decodeWord_of_opE, decodeOpE]
  | ldVxDt | ldVxK | ldDtVx | ldStVx | addIVx | ldFVx | ldBVx | ldMemIVx | ldVxMemI =>
    simp [encode, decodeWord_of_opF, decodeOpF]

/-- Settles O1: every field is read back from where `encode` put it, and the two bytes are those of the word. -/
theorem decodeOfEncodeIsIdentity : Obligations.DecodeOfEncodeIsIdentity := by
  intro i rest
  have hbytes : decodeStream (encodeBytes i ++ rest) =
      some (decodeBytes (highByte (encode i)) (lowByte (encode i)), rest) := rfl
  exact ⟨decodeWord_encode i, by rw [hbytes, decodeBytes_of_word, decodeWord_encode]⟩

/-! ## The word rebuilt from a form's fixed fields and its operands -/

section FormRules
variable {w : Word} {op n : Nibble} {kk : Byte}

theorem encodeNnn_of_op (hop : fieldOp w = op) : encodeNnn op (fieldNnn w) = w := hop ▸ encodeNnn_fields w

theorem encodeXkk_of_op (hop : fieldOp w = op) : encodeXkk op (fieldX w) (fieldKk w) = w := hop ▸ encodeXkk_fields w

theorem encodeXyn_of_op (hop : fieldOp w = op) : encodeXyn op (fieldX w) (fieldY w) (fieldN w) = w :=
  hop ▸ encodeXyn_fields w

theorem encodeXkk_of_low (hop : fieldOp w = op) (hkk : fieldKk w = kk) : encodeXkk op (fieldX w) kk = w :=
  hkk ▸ encodeXkk_of_op hop

theorem encodeXyn_of_last (hop : fieldOp w = op) (hn : fieldN w = n) : encodeXyn op (fieldX w) (fieldY w) n = w :=
  hn ▸ encodeXyn_of_op hop

end FormRules

/-! ## Encoding what was decoded -/

/-- The word an answer of the decoder stands for: the encoding of an instruction, or the rejected word. -/
def Decoded.word : Decoded → Word
  | .instr i => encode i
  | .unmatched w => w

section DecodedWord
variable {w : Word}

theorem Decoded.word_ite {c : Prop} [Decidable c] {i : Instr} {d : Decoded} (hthen : c → encode i = w)
    (helse : d.word = w) : (if c then .instr i else d : Decoded).word = w := by
  by_cases hc : c
  · rw [if_pos hc]; exact hthen hc
  · rw [if_neg hc]; exact helse

theorem word_decodeOp0 (w : Word) : (decodeOp0 w).word = w :=
  Decoded.word_ite Eq.symm <| Decoded.word_ite Eq.symm rfl

theorem word_decodeOp5 (hop : fieldOp w = 0x5) : (decodeOp5 w).word = w :=
  Decoded.word_ite (encodeXyn_of_last hop) rfl

theorem word_decodeOp8 (hop : fieldOp w = 0x8) : (decodeOp8 w).word = w := by
  unfold decodeOp8
  iterate 9 refine Decoded.word_ite (encodeXyn_of_last hop) ?_
  rfl

theorem word_decodeOp9 (hop : fieldOp w = 0x9) : (decodeOp9 w).word = w :=
  Decoded.word_ite (encodeXyn_of_last hop) rfl

theorem word_decodeOpE (hop : fieldOp w = 0xE) : (decodeOpE w).word = w :=
  Decoded.word_ite (encodeXkk_of_low hop) <| Decoded.word_ite (encodeXkk_of_low hop) rfl

theorem word_decodeOpF (hop : fieldOp w = 0xF) : (decodeOpF w).word = w := by
  unfold decodeOpF
  iterate 9 refine Decoded.word_ite (encodeXkk_of_low hop) ?_
  rfl

end DecodedWord

/-- The major opcodes with a second test: every other one is a form by itself (R85). -/
def groupOps : List Nibble := [0x0, 0x5, 0x8, 0x9, 0xE, 0xF]

/-- What the major opcode makes of a word: one form for all its words, or a group with a decoder of its own (R85). -/
inductive OpCase (w : Word) : Decoded → Prop
  | form {i : Instr} (hop : fieldOp w ∉ groupOps) (henc : encode i = w) : OpCase w (.instr i)
  | op0 (hop : fieldOp w = 0x0) : OpCase w (decodeOp0 w)
  | op5 (hop : fieldOp w = 0x5) : OpCase w (decodeOp5 w)
  | op8 (hop : fieldOp w = 0x8) : OpCase w (decodeOp8 w)
  | op9 (hop : fieldOp w = 0x9) : OpCase w (decodeOp9 w)
  | opE (hop : fieldOp w = 0xE) : OpCase w (decodeOpE w)
  | opF (hop : fieldOp w = 0xF) : OpCase w (decodeOpF w)

theorem OpCase.of_form {w : Word} {op : Nibble} {i : Instr} (hop : fieldOp w = op)
    (hdecode : decodeWord w = .instr i) (henc : encode i = w) (hgroup : op ∉ groupOps := by decide) :
    OpCase w (decodeWord w) := by
  rw [hdecode]
  exact .form (hop ▸ hgroup) henc

theorem nibble_cases : ∀ op : Nibble,
    op = 0x0 ∨ op = 0x1 ∨ op = 0x2 ∨ op = 0x3 ∨ op = 0x4 ∨ op = 0x5 ∨ op = 0x6 ∨ op = 0x7 ∨
    op = 0x8 ∨ op = 0x9 ∨ op = 0xA ∨ op = 0xB ∨ op = 0xC ∨ op = 0xD ∨ op = 0xE ∨ op = 0xF := by decide

theorem decodeWord_opCase (w : Word) : OpCase w (decodeWord w) := by
  rcases nibble_cases (fieldOp w) with h | h | h | h | h | h | h | h | h | h | h | h | h | h | h | h
  · exact decodeWord_of_op0 h ▸ .op0 h
  · exact .of_form h (decodeWord_of_op1 h) (encodeNnn_of_op h)
  · exact .of_form h (decodeWord_of_op2 h) (encodeNnn_of_op h)
  · exact .of_form h (decodeWord_of_op3 h) (encodeXkk_of_op h)
  · exact .of_form h (decodeWord_of_op4 h) (encodeXkk_of_op h)
  · exact decodeWord_of_op5 h ▸ .op5 h
  · exact .of_form h (decodeWord_of_op6 h) (encodeXkk_of_op h)
  · exact .of_form h (decodeWord_of_op7 h) (encodeXkk_of_op h)
  · exact decodeWord_of_op8 h ▸ .op8 h
  · exact decodeWord_of_op9 h ▸ .op9 h
  · exact .of_form h (decodeWord_of_opA h) (encodeNnn_of_op h)
  · exact .of_form h (decodeWord_of_opB h) (encodeNnn_of_op h)
  · exact .of_form h (decodeWord_of_opC h) (encodeXkk_of_op h)
  · exact .of_form h (decodeWord_of_opD h) (encodeXyn_of_op h)
  · exact decodeWord_of_opE h ▸ .opE h
  · exact decodeWord_of_opF h ▸ .opF h

theorem OpCase.word_eq {w : Word} {d : Decoded} (h : OpCase w d) : d.word = w := by
  cases h with
  | form _ henc => exact henc
  | op0 => exact word_decodeOp0 w
  | op5 hop => exact word_decodeOp5 hop
  | op8 hop => exact word_decodeOp8 hop
  | op9 hop => exact word_decodeOp9 hop
  | opE hop => exact word_decodeOpE hop
  | opF hop => exact word_decodeOpF hop

/-- No bit of a word is lost in decoding. -/
@[simp] theorem word_decodeWord (w : Word) : (decodeWord w).word = w := (decodeWord_opCase w).word_eq

theorem decodeWord_eq_instr_iff {w : Word} {i : Instr} : decodeWord w = .instr i ↔ encode i = w := by
  constructor
  · intro h
    simpa [h, Decoded.word] using word_decodeWord w
  · rintro rfl
    exact decodeWord_encode i

/-- Settles O2: the answer of the decoder stands for the word it read. -/
theorem encodeOfDecodeIsIdentity : Obligations.EncodeOfDecodeIsIdentity := fun _ _ => decodeWord_eq_instr_iff.1

/-! ## The match and mask table (R80, R81, R84) -/

section EncodedAsRules
variable (op : Nibble)

theorem encodedAs_fixed (i : Instr) : EncodedAs (encode i) 0xFFFF (fun _ => i) := by
  intro w
  have hmask : w &&& 0xFFFF = w := BitVec.and_allOnes
  rw [hmask, decodeWord_eq_instr_iff, eq_comm]

theorem encodedAs_nnn (mk : Addr12 → Instr) (henc : ∀ nnn, encode (mk nnn) = encodeNnn op nnn := by intro _; rfl) :
    EncodedAs (encodeNnn op 0) 0xF000 (fun w => mk (fieldNnn w)) := by
  intro w
  rw [mask_F000, decodeWord_eq_instr_iff, henc]
  exact ⟨encodeNnn_of_op, fun h => by rw [← h, fieldOp_encodeNnn]⟩

theorem encodedAs_xkk (mk : Nibble → Byte → Instr)
    (henc : ∀ x kk, encode (mk x kk) = encodeXkk op x kk := by intro _ _; rfl) :
    EncodedAs (encodeNnn op 0) 0xF000 (fun w => mk (fieldX w) (fieldKk w)) := by
  intro w
  rw [mask_F000, decodeWord_eq_instr_iff, henc]
  exact ⟨encodeXkk_of_op, fun h => by rw [← h, fieldOp_encodeXkk]⟩

theorem encodedAs_xyn (mk : Nibble → Nibble → Nibble → Instr)
    (henc : ∀ x y n, encode (mk x y n) = encodeXyn op x y n := by intro _ _ _; rfl) :
    EncodedAs (encodeNnn op 0) 0xF000 (fun w => mk (fieldX w) (fieldY w) (fieldN w)) := by
  intro w
  rw [mask_F000, decodeWord_eq_instr_iff, henc]
  exact ⟨encodeXyn_of_op, fun h => by rw [← h, fieldOp_encodeXyn]⟩

theorem encodedAs_xy (n : Nibble) (mk : Nibble → Nibble → Instr)
    (henc : ∀ x y, encode (mk x y) = encodeXyn op x y n := by intro _ _; rfl) :
    EncodedAs (encodeXyn op 0 0 n) 0xF00F (fun w => mk (fieldX w) (fieldY w)) := by
  intro w
  rw [mask_F00F, decodeWord_eq_instr_iff, henc]
  exact ⟨fun ⟨hop, hn⟩ => encodeXyn_of_last hop hn,
    fun h => by rw [← h, fieldOp_encodeXyn, fieldN_encodeXyn]; exact ⟨rfl, rfl⟩⟩

theorem encodedAs_x (kk : Byte) (mk : Nibble → Instr)
    (henc : ∀ x, encode (mk x) = encodeXkk op x kk := by intro _; rfl) :
    EncodedAs (encodeXkk op 0 kk) 0xF0FF (fun w => mk (fieldX w)) := by
  intro w
  rw [mask_F0FF, decodeWord_eq_instr_iff, henc]
  exact ⟨fun ⟨hop, hkk⟩ => encodeXkk_of_low hop hkk,
    fun h => by rw [← h, fieldOp_encodeXkk, fieldKk_encodeXkk]; exact ⟨rfl, rfl⟩⟩

end EncodedAsRules

/-- The words a row covers are decoded to instructions of its form, with operands that depend on the word alone. -/
def OpcodeRow.Decodes (r : OpcodeRow) : Prop :=
  ∃ mk : Word → Instr, EncodedAs r.value r.mask mk ∧ ∀ w, (mk w).form = r.form

namespace OpcodeRow.Decodes

theorem of {form : String} {value mask : Word} {mk : Word → Instr} (h : EncodedAs value mask mk)
    (hform : ∀ w, (mk w).form = form := by intro _; rfl) : Decodes ⟨form, value, mask⟩ := ⟨mk, h, hform⟩

theorem of_mem_opcodeRows1 : ∀ r ∈ opcodeRows1, r.Decodes := by
  simp only [opcodeRows1, List.forall_mem_cons]
  exact ⟨of (encodedAs_fixed .cls), of (encodedAs_fixed .ret), of (encodedAs_nnn 0x1 .jp),
    of (encodedAs_nnn 0x2 .call), of (encodedAs_xkk 0x3 .seVxKk), of (encodedAs_xkk 0x4 .sneVxKk),
    of (encodedAs_xy 0x5 0x0 .seVxVy), of (encodedAs_xkk 0x6 .ldVxKk), of (encodedAs_xkk 0x7 .addVxKk),
    List.forall_mem_nil _⟩

theorem of_mem_opcodeRows2 : ∀ r ∈ opcodeRows2, r.Decodes := by
  simp only [opcodeRows2, List.forall_mem_cons]
  exact ⟨of (encodedAs_xy 0x8 0x0 .ldVxVy), of (encodedAs_xy 0x8 0x1 .orVxVy), of (encodedAs_xy 0x8 0x2 .andVxVy),
    of (encodedAs_xy 0x8 0x3 .xorVxVy), of (encodedAs_xy 0x8 0x4 .addVxVy), of (encodedAs_xy 0x8 0x5 .subVxVy),
    of (encodedAs_xy 0x8 0x6 .shrVx), of (encodedAs_xy 0x8 0x7 .subnVxVy), of (encodedAs_xy 0x8 0xE .shlVx),
    List.forall_mem_nil _⟩

theorem of_mem_opcodeRows3 : ∀ r ∈ opcodeRows3, r.Decodes := by
  simp only [opcodeRows3, List.forall_mem_cons]
  exact ⟨of (encodedAs_xy 0x9 0x0 .sneVxVy), of (encodedAs_nnn 0xA .ldINnn), of (encodedAs_nnn 0xB .jpV0),
    of (encodedAs_xkk 0xC .rndVxKk), of (encodedAs_xyn 0xD .drw), of (encodedAs_x 0xE 0x9E .skp),
    of (encodedAs_x 0xE 0xA1 .sknp), List.forall_mem_nil _⟩

theorem of_mem_opcodeRows4 : ∀ r ∈ opcodeRows4, r.Decodes := by
  simp only [opcodeRows4, List.forall_mem_cons]
  exact ⟨of (encodedAs_x 0xF 0x07 .ldVxDt), of (encodedAs_x 0xF 0x0A .ldVxK), of (encodedAs_x 0xF 0x15 .ldDtVx),
    of (encodedAs_x 0xF 0x18 .ldStVx), of (encodedAs_x 0xF 0x1E .addIVx), of (encodedAs_x 0xF 0x29 .ldFVx),
    of (encodedAs_x 0xF 0x33 .ldBVx), of (encodedAs_x 0xF 0x55 .ldMemIVx), of (encodedAs_x 0xF 0x65 .ldVxMemI),
    List.forall_mem_nil _⟩

theorem of_mem_opcodeTable {r : OpcodeRow} (hr : r ∈ opcodeTable) : r.Decodes := by
  simp only [opcodeTable, List.mem_append] at hr
  rcases hr with ((h | h) | h) | h
  · exact of_mem_opcodeRows1 r h
  · exact of_mem_opcodeRows2 r h
  · exact of_mem_opcodeRows3 r h
  · exact of_mem_opcodeRows4 r h

end OpcodeRow.Decodes

theorem Laws.EncodesRow.holds : ∀ i : Instr, Statement i
  | .cls => cls
  | .ret => ret
  | .jp nnn => jp nnn
  | .call nnn => call nnn
  | .seVxKk x kk => seVxKk x kk
  | .sneVxKk x kk => sneVxKk x kk
  | .seVxVy x y => seVxVy x y
  | .ldVxKk x kk => ldVxKk x kk
  | .addVxKk x kk => addVxKk x kk
  | .ldVxVy x y => ldVxVy x y
  | .orVxVy x y => orVxVy x y
  | .andVxVy x y => andVxVy x y
  | .xorVxVy x y => xorVxVy x y
  | .addVxVy x y => addVxVy x y
  | .subVxVy x y => subVxVy x y
  | .shrVx x y => shrVx x y
  | .subnVxVy x y => subnVxVy x y
  | .shlVx x y => shlVx x y
  | .sneVxVy x y => sneVxVy x y
  | .ldINnn nnn => ldINnn nnn
  | .jpV0 nnn => jpV0 nnn
  | .rndVxKk x kk => rndVxKk x kk
  | .drw x y n => drw x y n
  | .skp x => skp x
  | .sknp x => sknp x
  | .ldVxDt x => ldVxDt x
  | .ldVxK x => ldVxK x
  | .ldDtVx x => ldDtVx x
  | .ldStVx x => ldStVx x
  | .addIVx x => addIVx x
  | .ldFVx x => ldFVx x
  | .ldBVx x => ldBVx x
  | .ldMemIVx x => ldMemIVx x
  | .ldVxMemI x => ldVxMemI x

theorem nodup_forms : (opcodeTable.map OpcodeRow.form).Nodup := by decide

theorem OpcodeRow.eq_of_form_eq {r q : OpcodeRow} (hr : r ∈ opcodeTable) (hq : q ∈ opcodeTable)
    (hform : r.form = q.form) : r = q :=
  List.inj_on_of_nodup_map nodup_forms hr hq hform

theorem OpcodeRow.covers_encode {r : OpcodeRow} {i : Instr} (hr : r ∈ opcodeTable) (hform : i.form = r.form) :
    r.covers (encode i) = true := by
  obtain ⟨q, hq, hqform, hcovers⟩ := Laws.EncodesRow.holds i
  exact eq_of_form_eq hq hr (hqform.trans hform) ▸ hcovers

/-- Settles O3: a covered word is decoded as its row says, and an encoding satisfies the test of its form's row. -/
theorem decoderAgreesWithTable : Obligations.DecoderAgreesWithTable := by
  intro w r hr
  constructor
  · intro hcovers
    obtain ⟨mk, hdecode, hform⟩ := OpcodeRow.Decodes.of_mem_opcodeTable hr
    exact ⟨mk w, (hdecode w).1 (eq_of_beq hcovers), hform w⟩
  · rintro ⟨i, hdecode, hform⟩
    exact decodeWord_eq_instr_iff.1 hdecode ▸ OpcodeRow.covers_encode hr hform

/-- Settles O4: a word encodes at most one instruction, that has one form, and a form has one row. -/
theorem patternsArePairwiseDisjoint : Obligations.PatternsArePairwiseDisjoint := by
  intro w r q hr hq hrw hqw
  obtain ⟨i, hi, hiform⟩ := (decoderAgreesWithTable w r hr).1 hrw
  obtain ⟨j, hj, hjform⟩ := (decoderAgreesWithTable w q hq).1 hqw
  obtain rfl : i = j := Decoded.instr.inj (hi.symm.trans hj)
  exact OpcodeRow.eq_of_form_eq hr hq (hiform.symm.trans hjform)

/-! ## The unmatched words (R91) -/

section Unmatched
variable {w : Word}

theorem decodeOp0_eq_unmatched_iff : decodeOp0 w = .unmatched w ↔ w ≠ 0x00E0 ∧ w ≠ 0x00EE := by
  simp [decodeOp0, ite_instr_eq_unmatched]

theorem decodeOp5_eq_unmatched_iff : decodeOp5 w = .unmatched w ↔ fieldN w ≠ 0x0 := by
  simp [decodeOp5]

theorem decodeOp8_eq_unmatched_iff :
    decodeOp8 w = .unmatched w ↔ fieldN w ∈ [0x8, 0x9, 0xA, 0xB, 0xC, 0xD, 0xF] := by
  have complement : ∀ n : Nibble, n ∉ [0x0, 0x1, 0x2, 0x3, 0x4, 0x5, 0x6, 0x7, 0xE] ↔
      n ∈ [0x8, 0x9, 0xA, 0xB, 0xC, 0xD, 0xF] := by decide
  rw [← complement]
  simp [decodeOp8, ite_instr_eq_unmatched]

theorem decodeOp9_eq_unmatched_iff : decodeOp9 w = .unmatched w ↔ fieldN w ≠ 0x0 := by
  simp [decodeOp9]

theorem decodeOpE_eq_unmatched_iff : decodeOpE w = .unmatched w ↔ fieldKk w ∉ [0x9E, 0xA1] := by
  simp [decodeOpE, ite_instr_eq_unmatched]

theorem decodeOpF_eq_unmatched_iff : decodeOpF w = .unmatched w ↔
    fieldKk w ∉ [0x07, 0x0A, 0x15, 0x18, 0x1E, 0x29, 0x33, 0x55, 0x65] := by
  simp [decodeOpF, ite_instr_eq_unmatched]

end Unmatched

/-- Settles O5: a major opcode that is a form by itself rejects nothing, and each of the six groups rejects the words
listed for it. -/
theorem unmatchedWordsAreTheListedOnes : Obligations.UnmatchedWordsAreTheListedOnes := by
  intro w
  have hcase := decodeWord_opCase w
  generalize decodeWord w = d at hcase ⊢
  cases hcase with
  | form hop =>
    simp only [groupOps, List.mem_cons, List.not_mem_nil, or_false, not_or] at hop
    simp only [hop, false_and, or_self, reduceCtorEq]
  | op0 hop => simp [decodeOp0_eq_unmatched_iff, hop]
  | op5 hop => simp [decodeOp5_eq_unmatched_iff, hop]
  | op8 hop => simp [decodeOp8_eq_unmatched_iff, hop]
  | op9 hop => simp [decodeOp9_eq_unmatched_iff, hop]
  | opE hop => simp [decodeOpE_eq_unmatched_iff, hop]
  | opF hop => simp [decodeOpF_eq_unmatched_iff, hop]

/-! ## The encoding as shifts and ORs (R77, R96) -/

/-- Settles O6: each field is appended below the ones before it, which is a shift by its width and an OR. -/
theorem encodingIsMatchOrShiftedFields : Obligations.EncodingIsMatchOrShiftedFields := by
  intro op x y n kk nnn
  have widen (w : Word) : w = w.setWidth 16 := (BitVec.setWidth_eq w).symm
  exact ⟨(widen _).trans BitVec.setWidth_append_eq_shiftLeft_setWidth_or,
    (widen _).trans BitVec.setWidth_append_append_eq_shiftLeft_setWidth_or,
    (widen _).trans BitVec.setWidth_append_append_append_eq_shiftLeft_setWidth_or⟩

/-! ## Single words -/

/-- Settles O7: the decoder runs on ten literals. -/
theorem sampleWordsDecode : Obligations.SampleWordsDecode := by
  unfold Obligations.SampleWordsDecode
  decide

end Sys2Proof
end

section
/-! PROOFS. The listing lines of instructions read back (spec/30_encoding.md R95), and a Cycle on an unmatched
word (R90). -/

namespace Sys2Proof.Machine

@[simp] theorem fitField_toNat {width : Nat} (b : BitVec width) : fitField width b.toNat = some b := by
  simp [fitField, b.isLt]

/-- Settles O8: a number written from a field fits the field it is read into, and SHR and SHL write y unless it is 0. -/
theorem assembleOfDisassembleIsIdentity : Obligations.AssembleOfDisassembleIsIdentity := by
  intro i
  cases i with
  | shrVx x y | shlVx x y =>
    by_cases hy : y = 0x0
    · subst hy; rfl
    · simp only [disassemble, if_neg hy, assemble]
  | cls | ret => rfl
  | jp | call | ldINnn | jpV0 => simp [disassemble, assemble]
  | seVxKk | sneVxKk | ldVxKk | addVxKk | rndVxKk | drw => simp [disassemble, assemble]
  | seVxVy | sneVxVy | ldVxVy | orVxVy | andVxVy | xorVxVy | addVxVy | subVxVy | subnVxVy => rfl
  | skp | sknp | ldVxDt | ldVxK | ldDtVx | ldStVx | addIVx | ldFVx | ldBVx | ldMemIVx | ldVxMemI => rfl

/-- Settles O18: the word is fetched and rejected, and the policy alone decides between the advance and the raise. -/
theorem stepOnUnmatchedWord : Obligations.StepOnUnmatchedWord := by
  intro s w hclear hpc hdecode
  have hstep := step_of_unmatched hclear (State.fetch_of_pc_le hpc) hdecode
  constructor
  · intro hnop
    exact ⟨_, hstep.trans (execUnmatched_of_nop w hnop), rfl, (Frame.refl _ s).advance 2⟩
  · intro hfault
    exact hstep.trans (execUnmatched_of_fault w hfault)

end Sys2Proof.Machine
end

section
/-! PROOFS. Jumps, the stack primitives, CALL and RET (spec/40_flow_stack.md): what each answers where it is done and
where it raises, and a return that undoes its call. -/

namespace Sys2Proof.Machine

/-! ## Jumps (R104, R106) -/

theorem exec_jp (nnn : Addr12) (s : State) : exec (.jp nnn) s = .next { s with pc := zextAddr nnn } := rfl

theorem exec_jpV0 (nnn : Addr12) (s : State) :
    exec (.jpV0 nnn) s = .next { s with pc := zextByte (s.reg 0x0) + zextAddr nnn } := rfl

/-- The sum of Bnnn stays below 2^16, so it is the sum of the numbers (decision D14). -/
theorem toNat_zextByte_add_zextAddr (b : Byte) (nnn : Addr12) :
    (zextByte b + zextAddr nnn).toNat = b.toNat + nnn.toNat := by
  have hbyte : (zextByte b).toNat = b.toNat := BitVec.toNat_setWidth_of_le (by decide)
  have haddr := toNat_zextAddr nnn
  rw [BitVec.toNat_add_of_lt (by have := b.isLt; have := nnn.isLt; omega), hbyte, haddr]

/-- Settles O27: the target is the zero-extended field, and pc is outside every frame. -/
theorem jumpWritesPc : Obligations.JumpWritesPc :=
  ⟨encodedAs_nnn 0x1 .jp, fun nnn s => ⟨_, exec_jp nnn s, toNat_zextAddr nnn, (Frame.refl _ s).withPc _⟩⟩

/-- Settles O28: the sum cannot wrap, and nothing reduces it. -/
theorem jumpWithOffsetAddsV0 : Obligations.JumpWithOffsetAddsV0 :=
  ⟨encodedAs_nnn 0xB .jpV0, fun nnn s =>
    ⟨_, exec_jpV0 nnn s, toNat_zextByte_add_zextAddr (s.reg 0x0) nnn, (Frame.refl _ s).withPc _⟩⟩

/-! ## `Call(t)` and `Return()` by the value of SP (R101, R102; decision D18) -/

section StackPrimitives
variable {s t v : State} {target : Word} {k : Nibble}

theorem callTo_of_le (target : Word) (hsp : s.sp.toNat ≤ 14) :
    callTo target s = .done { (s.setSlot s.pushSlot s.pc) with sp := s.sp + 1, pc := target } := by
  rcases callTo_cases target s with ⟨hfull, -⟩ | ⟨-, hdone⟩
  · omega
  · exact hdone

theorem callTo_of_ge (target : Word) (hsp : 15 ≤ s.sp.toNat) :
    callTo target s = .raised .stackOverflow s.pc.toNat := by
  rcases callTo_cases target s with ⟨-, hraised⟩ | ⟨hroom, -⟩
  · exact hraised
  · omega

theorem returnFrom_of_zero (hsp : s.sp.toNat = 0) : returnFrom s = .raised .stackUnderflow s.pc.toNat := by
  rcases returnFrom_cases s with ⟨-, hraised⟩ | ⟨habove, -⟩ | ⟨hpos, -, -⟩
  · exact hraised
  · omega
  · omega

theorem returnFrom_of_gt (hsp : 15 < s.sp.toNat) : returnFrom s = .stuck (.stackSlotAbsent s.sp.toNat) := by
  rcases returnFrom_cases s with ⟨hzero, -⟩ | ⟨-, hstuck⟩ | ⟨-, hslot, -⟩
  · omega
  · exact hstuck
  · omega

/-- `Return()` with SP the number of a slot `k` above 0. -/
theorem returnFrom_of_slot (hpos : 1 ≤ k.toNat) (hk : k.toNat = s.sp.toNat) :
    returnFrom s = .done { s with pc := s.slot k, sp := s.sp - 1 } := by
  have hlt : k.toNat < 16 := k.isLt
  have hnibble : s.sp.setWidth 4 = k := by bv_omega
  rcases returnFrom_cases s with ⟨hzero, -⟩ | ⟨habove, -⟩ | ⟨-, -, hdone⟩
  · omega
  · omega
  · rw [hdone, hnibble]

/-- A return undoes the last call whenever SP and the stack are as the call left them, whatever else happened
since (R107). -/
theorem returnFrom_after_callTo (hcall : callTo target s = .done t) (hsp : v.sp = t.sp) (hstk : v.stk = t.stk) :
    returnFrom v = .done { v with pc := s.pc, sp := s.sp } := by
  rcases callTo_cases target s with ⟨-, hraised⟩ | ⟨hroom, hdone⟩
  · rw [hraised] at hcall
    nomatch hcall
  · obtain rfl := Attempt.done.inj (hdone.symm.trans hcall)
    have hpushed := State.toNat_pushSlot hroom
    have hslot : v.slot s.pushSlot = s.pc :=
      (State.slot_congr hstk _).trans ((State.slot_setSlot s _ _ _).trans (if_pos rfl))
    have hback : v.sp - 1 = s.sp := by rw [hsp]; exact BitVec.add_sub_cancel _ _
    have hk : s.pushSlot.toNat = v.sp.toNat := by rw [hpushed, hsp]; bv_omega
    rw [returnFrom_of_slot (by omega) hk, hslot, hback]

end StackPrimitives

/-! ## CALL and RET (R103, R105) -/

theorem exec_call (nnn : Addr12) (s : State) : exec (.call nnn) s = settle s (callTo (zextAddr nnn) s) := rfl

theorem exec_ret (s : State) : exec .ret s = settle s ((returnFrom s).andThen fun t => t.advance 2) := rfl

/-- A call with a free slot above SP. -/
theorem exec_call_of_le {s : State} (nnn : Addr12) (hsp : s.sp.toNat ≤ 14) :
    exec (.call nnn) s = .next { (s.setSlot s.pushSlot s.pc) with sp := s.sp + 1, pc := zextAddr nnn } := by
  rw [exec_call, callTo_of_le _ hsp, settle_done]

/-- Where `Return()` is done, RET goes on two bytes after the restored pc. -/
theorem exec_ret_of_done {s t : State} (h : returnFrom s = .done t) : exec .ret s = .next (t.advance 2) := by
  rw [exec_ret, h]
  rfl

/-- Settles O31: both halves are the return that undoes its call; RET then advances. -/
theorem callThenReturnRoundTrip : Obligations.CallThenReturnRoundTrip := by
  intro nnn s hsp
  constructor
  · have hcall := callTo_of_le (zextAddr nnn) hsp
    exact ⟨_, exec_call_of_le nnn hsp, fun v hvsp hvstk =>
      ⟨_, exec_ret_of_done (returnFrom_after_callTo hcall hvsp hvstk), rfl, rfl⟩⟩
  · intro target
    have hcall := callTo_of_le target hsp
    exact ⟨_, _, hcall, returnFrom_after_callTo hcall rfl rfl, rfl, rfl⟩

/-- Settles O29: with SP at most 14 the slot above SP is `State.pushSlot`; with SP from 15 up the push raises. -/
theorem callPushesItsOwnAddress : Obligations.CallPushesItsOwnAddress := by
  refine ⟨encodedAs_nnn 0x2 .call, fun nnn s => ⟨fun k hk => ?_, fun hsp => ?_⟩⟩
  · have hlt : k.toNat < 16 := k.isLt
    have hsp : s.sp.toNat ≤ 14 := by omega
    obtain rfl : k = s.pushSlot := BitVec.eq_of_toNat_eq (hk.trans (State.toNat_pushSlot hsp).symm)
    have hcall := exec_call_of_le nnn hsp
    exact ⟨_, hcall, toNat_zextAddr nnn, by bv_omega, (State.slot_setSlot s _ _ _).trans (if_pos rfl),
      exec_frame_latchAside hcall⟩
  · rw [exec_call, callTo_of_ge _ hsp, settle_raised, takeFault]

/-- Settles O30: the three ranges of SP are the three outcomes of `Return()`. -/
theorem returnResumesAfterTheCall : Obligations.ReturnResumesAfterTheCall := by
  refine ⟨encodedAs_fixed .ret, fun s => ⟨fun k hpos hk => ?_, fun hzero => ?_, fun habove => ?_⟩⟩
  · have hret := exec_ret_of_done (returnFrom_of_slot hpos hk)
    exact ⟨_, hret, rfl, BitVec.toNat_sub_of_le (by bv_omega), exec_frame_latchAside hret⟩
  · rw [exec_ret, returnFrom_of_zero (by rw [hzero]; rfl)]
    rfl
  · rw [exec_ret, returnFrom_of_gt habove]
    rfl

end Sys2Proof.Machine
end

section
/-! PROOFS. The skips that compare registers (spec/41_skip.md): a skip is done from every state, its predicate decides
between the two advances, and nothing else changes (R110). -/

namespace Sys2Proof.Machine

/-! ## What every skip does (R110) -/

section SkipRules
variable {p : Bool} {c : Prop} [Decidable c]

theorem State.skipIf_pc (s : State) (hp : p = true ↔ c) :
    (s.skipIf p).pc = if c then s.pc + 4 else s.pc + 2 := by
  rw [State.skipIf_eq, State.advance_pc]
  by_cases hc : c
  · rw [if_pos hc, if_pos (hp.2 hc)]
  · rw [if_neg hc, if_neg (mt hp.1 hc)]

/-- An instruction that answers with a skip advances pc by 4 or by 2, as the predicate says, and keeps all else. -/
theorem skips_of_exec_eq {i : Instr} {s : State} (hexec : exec i s = .next (s.skipIf p)) (hp : p = true ↔ c) :
    ∃ t, exec i s = .next t ∧ t.pc = (if c then s.pc + 4 else s.pc + 2) ∧ Frame {} s t :=
  ⟨_, hexec, s.skipIf_pc hp, (Frame.refl _ s).skipIf p⟩

end SkipRules

/-! ## The four instructions (R111 to R114) -/

theorem exec_seVxKk (x : Nibble) (kk : Byte) (s : State) :
    exec (.seVxKk x kk) s = .next (s.skipIf (s.reg x == kk)) := rfl

theorem exec_sneVxKk (x : Nibble) (kk : Byte) (s : State) :
    exec (.sneVxKk x kk) s = .next (s.skipIf (s.reg x != kk)) := rfl

theorem exec_seVxVy (x y : Nibble) (s : State) :
    exec (.seVxVy x y) s = .next (s.skipIf (s.reg x == s.reg y)) := rfl

theorem exec_sneVxVy (x y : Nibble) (s : State) :
    exec (.sneVxVy x y) s = .next (s.skipIf (s.reg x != s.reg y)) := rfl

/-- Settles O32: both are skips, on V[x] being kk and on its being another byte. -/
theorem skipOnConstant : Obligations.SkipOnConstant :=
  ⟨encodedAs_xkk 0x3 .seVxKk, encodedAs_xkk 0x4 .sneVxKk, fun x kk s =>
    ⟨skips_of_exec_eq (exec_seVxKk x kk s) beq_iff_eq, skips_of_exec_eq (exec_sneVxKk x kk s) bne_iff_ne⟩⟩

/-- Settles O33: both are skips, on V[x] being V[y] and on their differing; the groups of major opcodes 5 and 9 reject
exactly the words whose last nibble is not 0 (R91). -/
theorem skipOnRegisters : Obligations.SkipOnRegisters := by
  refine ⟨encodedAs_xy 0x5 0x0 .seVxVy, encodedAs_xy 0x9 0x0 .sneVxVy, fun w hop hn => ?_, fun x y s =>
    ⟨skips_of_exec_eq (exec_seVxVy x y s) beq_iff_eq, skips_of_exec_eq (exec_sneVxVy x y s) bne_iff_ne⟩⟩
  rcases hop with h5 | h9
  · exact (decodeWord_of_op5 h5).trans (decodeOp5_eq_unmatched_iff.2 hn)
  · exact (decodeWord_of_op9 h9).trans (decodeOp9_eq_unmatched_iff.2 hn)

end Sys2Proof.Machine
end

section
/-! PROOFS. Arithmetic and logic (spec/42_alu.md): a form without a flag writes V[x] and pc, one with a flag VF too, and
the result is the later write (R120, R130). -/

namespace Sys2Proof.Machine

/-! ## A result, and a result with a flag (R120, R130) -/

@[simp] theorem State.reg_putResult_self (s : State) (x : Nibble) (b : Byte) : (s.putResult x b).reg x = b :=
  (s.reg_putResult x x b).trans (if_pos rfl)

theorem State.frame_putResult (s : State) (x : Nibble) (b : Byte) : Frame { regs := [x] } s (s.putResult x b) :=
  (Frame.refl _ s).putResult (List.mem_singleton_self x) b

@[simp] theorem State.reg_putFlagResult_self (s : State) (x : Nibble) (f b : Byte) :
    (s.putFlagResult x f b).reg x = b :=
  (s.reg_putFlagResult x x f b).trans (if_pos rfl)

/-- VF holds the flag unless it is the destination of the result (decision D4). -/
theorem State.reg_vf_putFlagResult (s : State) {x : Nibble} (f b : Byte) (hx : x ≠ 0xF) :
    (s.putFlagResult x f b).reg 0xF = f :=
  (s.reg_putFlagResult x vf f b).trans ((if_neg hx.symm).trans (if_pos rfl))

theorem State.frame_putFlagResult (s : State) (x : Nibble) (f b : Byte) :
    Frame { regs := [x, 0xF] } s (s.putFlagResult x f b) :=
  (Frame.refl _ s).putFlagResult List.mem_cons_self (List.mem_cons_of_mem x (List.mem_singleton_self vf)) f b

/-- An instruction that answers with a flag and a result: what V[x] and VF hold, and that nothing else changed. -/
theorem putsFlagResult_of_exec_eq {i : Instr} {s : State} {x : Nibble} {f g b : Byte} {n : Nat}
    (hexec : exec i s = .next (s.putFlagResult x f b)) (hb : b.toNat = n) (hf : f = g) :
    ∃ t, exec i s = .next t ∧ (t.reg x).toNat = n ∧ (x ≠ 0xF → t.reg 0xF = g) ∧ t.pc = s.pc + 2 ∧
      Frame { regs := [x, 0xF] } s t :=
  ⟨_, hexec, by rw [State.reg_putFlagResult_self, hb], fun hx => (s.reg_vf_putFlagResult f b hx).trans hf, rfl,
    s.frame_putFlagResult x f b⟩

/-! ## The flag values (R21) -/

section FlagValues
variable (a b : Byte)

theorem flag_decide (c : Prop) [Decidable c] : flag (decide c) = if c then 0x01 else 0x00 := by
  by_cases hc : c
  · rw [decide_eq_true hc, if_pos hc]; rfl
  · rw [decide_eq_false hc, if_neg hc]; rfl

theorem carryFlag_eq_ite : carryFlag a b = if a.toNat + b.toNat > 255 then 0x01 else 0x00 := flag_decide _

theorem greaterFlag_eq_ite : greaterFlag a b = if a.toNat > b.toNat then 0x01 else 0x00 := flag_decide _

/-- A difference of bytes as a number, written without a negative intermediate value (R128). -/
theorem toNat_byte_sub : (a - b).toNat = (a.toNat + 256 - b.toNat) % 256 := by
  have hb : b.toNat < 256 := b.isLt
  rw [BitVec.toNat_sub]
  omega

end FlagValues

/-! ## The instructions (R121 to R129, R132) -/

section AluEquations
variable (x y : Nibble) (kk : Byte) (s : State)

theorem exec_ldVxKk : exec (.ldVxKk x kk) s = .next (s.putResult x kk) := rfl

theorem exec_ldVxVy : exec (.ldVxVy x y) s = .next (s.putResult x (s.reg y)) := rfl

theorem exec_addVxKk : exec (.addVxKk x kk) s = .next (s.putResult x (s.reg x + kk)) := rfl

theorem exec_orVxVy : exec (.orVxVy x y) s = .next (s.putResult x (s.reg x ||| s.reg y)) := rfl

theorem exec_andVxVy : exec (.andVxVy x y) s = .next (s.putResult x (s.reg x &&& s.reg y)) := rfl

theorem exec_xorVxVy : exec (.xorVxVy x y) s = .next (s.putResult x (s.reg x ^^^ s.reg y)) := rfl

theorem exec_addVxVy : exec (.addVxVy x y) s =
    .next (s.putFlagResult x (carryFlag (s.reg x) (s.reg y)) (s.reg x + s.reg y)) := rfl

theorem exec_subVxVy : exec (.subVxVy x y) s =
    .next (s.putFlagResult x (greaterFlag (s.reg x) (s.reg y)) (s.reg x - s.reg y)) := rfl

theorem exec_subnVxVy : exec (.subnVxVy x y) s =
    .next (s.putFlagResult x (greaterFlag (s.reg y) (s.reg x)) (s.reg y - s.reg x)) := rfl

theorem exec_rndVxKk : exec (.rndVxKk x kk) s =
    .next (s.drawRandom.2.putResult x (Config.rnd s.rndDraws &&& kk)) := rfl

end AluEquations

/-- Settles O34: each load puts its source, kk or V[y], as the result. -/
theorem loadWritesTheRegister : Obligations.LoadWritesTheRegister :=
  ⟨encodedAs_xkk 0x6 .ldVxKk, encodedAs_xy 0x8 0x0 .ldVxVy, fun x y kk s =>
    ⟨⟨_, exec_ldVxKk x kk s, s.reg_putResult_self x _, rfl, s.frame_putResult x _⟩,
      ⟨_, exec_ldVxVy x y s, s.reg_putResult_self x _, rfl, s.frame_putResult x _⟩⟩⟩

/-- Settles O35: the sum of two bytes is their sum modulo 256, and no flag is put beside it. -/
theorem addConstantWrapsWithoutFlag : Obligations.AddConstantWrapsWithoutFlag := by
  refine ⟨encodedAs_xkk 0x7 .addVxKk, fun x kk s => ⟨_, exec_addVxKk x kk s, ?_, rfl, s.frame_putResult x _⟩⟩
  rw [State.reg_putResult_self]
  exact BitVec.toNat_add _ _

/-- Settles O36: the results are the bitwise operations on bytes, read off bit by bit. -/
theorem logicIsBitwise : Obligations.LogicIsBitwise := by
  refine ⟨encodedAs_xy 0x8 0x1 .orVxVy, encodedAs_xy 0x8 0x2 .andVxVy, encodedAs_xy 0x8 0x3 .xorVxVy, fun x y s =>
    ⟨⟨_, exec_orVxVy x y s, fun b => ?_, rfl, s.frame_putResult x _⟩,
      ⟨_, exec_andVxVy x y s, fun b => ?_, rfl, s.frame_putResult x _⟩,
      ⟨_, exec_xorVxVy x y s, fun b => ?_, rfl, s.frame_putResult x _⟩⟩⟩
  · rw [State.reg_putResult_self, BitVec.getLsbD_or]
  · rw [State.reg_putResult_self, BitVec.getLsbD_and]
  · rw [State.reg_putResult_self, BitVec.getLsbD_xor]

/-- Settles O37: the sum wraps at 256, and the carry is computed from the operands before either write. -/
theorem addSetsCarry : Obligations.AddSetsCarry :=
  ⟨encodedAs_xy 0x8 0x4 .addVxVy, fun x y s =>
    putsFlagResult_of_exec_eq (exec_addVxVy x y s) (BitVec.toNat_add _ _) (carryFlag_eq_ite _ _)⟩

/-- Settles O38: SUB and SUBN are one difference and one comparison, with the operands exchanged. -/
theorem subtractFlagIsStrict : Obligations.SubtractFlagIsStrict :=
  ⟨encodedAs_xy 0x8 0x5 .subVxVy, encodedAs_xy 0x8 0x7 .subnVxVy, fun x y s =>
    ⟨putsFlagResult_of_exec_eq (exec_subVxVy x y s) (toNat_byte_sub _ _) (greaterFlag_eq_ite _ _),
      putsFlagResult_of_exec_eq (exec_subnVxVy x y s) (toNat_byte_sub _ _) (greaterFlag_eq_ite _ _)⟩⟩

/-- Settles O40: of whatever byte is drawn, the AND with kk has only bits of kk; the draw itself changes the draw number
alone. -/
theorem randomByteIsMasked : Obligations.RandomByteIsMasked := by
  refine ⟨encodedAs_xkk 0xC .rndVxKk, fun x kk s =>
    ⟨_, exec_rndVxKk x kk s, State.reg_putResult_self _ x _, fun b hb => ?_, ?_, rfl, rfl,
      ((Frame.refl _ s).drawRandom rfl).putResult (List.mem_singleton_self x) _⟩⟩
  · rw [State.reg_putResult_self, BitVec.getLsbD_and, hb, Bool.and_false]
  · rw [State.reg_putResult_self, BitVec.toNat_and]
    exact Nat.and_le_right

end Sys2Proof.Machine
end

section
/-! PROOFS. The shifts by one (spec/43_shift.md): halving and doubling V[x], with the bit shifted out read as a number;
y is in no equation of theirs (R137). -/

namespace Sys2Proof.Machine

/-! ## The bit shifted out, as a number (R21) -/

section ShiftedOutBit
variable (a : Byte)

theorem toNat_flag (p : Bool) : (flag p).toNat = p.toNat := by cases p <;> rfl

theorem toNat_flag_getLsbD (k : Nat) : (flag (a.getLsbD k)).toNat = a.toNat / 2 ^ k % 2 :=
  (toNat_flag _).trans (Nat.toNat_testBit a.toNat k)

theorem toNat_lowBitFlag : (lowBitFlag a).toNat = a.toNat % 2 := by
  rw [lowBitFlag, toNat_flag_getLsbD, pow_zero, Nat.div_one]

/-- Bit 7 is what is left of a byte above the low seven bits: the quotient is already below 2. -/
theorem toNat_highBitFlag : (highBitFlag a).toNat = a.toNat / 128 := by
  have hquot : a.toNat / 2 ^ 7 < 2 := Nat.div_lt_of_lt_mul a.isLt
  exact (toNat_flag_getLsbD a 7).trans (Nat.mod_eq_of_lt hquot)

end ShiftedOutBit

/-! ## The byte shifted by one (R135, R136) -/

section ShiftedByte
variable (a : Byte)

theorem toNat_byte_shiftRight_one : (a >>> 1).toNat = a.toNat / 2 := by
  rw [BitVec.toNat_ushiftRight, Nat.shiftRight_one]

theorem toNat_byte_shiftLeft_one : (a <<< 1).toNat = 2 * a.toNat % 256 := by
  rw [BitVec.toNat_shiftLeft, Nat.shiftLeft_eq, pow_one, Nat.mul_comm]

end ShiftedByte

/-! ## The two instructions (R135 to R137) -/

theorem exec_shrVx (x y : Nibble) (s : State) : exec (.shrVx x y) s =
    .next (s.putFlagResult x (lowBitFlag (s.reg x)) (s.reg x >>> 1)) := rfl

theorem exec_shlVx (x y : Nibble) (s : State) : exec (.shlVx x y) s =
    .next (s.putFlagResult x (highBitFlag (s.reg x)) (s.reg x <<< 1)) := rfl

/-- `putsFlagResult_of_exec_eq` with the flag, too, read as a number. -/
theorem putsFlagResult_toNat_of_exec_eq {i : Instr} {s : State} {x : Nibble} {f b : Byte} {n m : Nat}
    (hexec : exec i s = .next (s.putFlagResult x f b)) (hb : b.toNat = n) (hf : f.toNat = m) :
    ∃ t, exec i s = .next t ∧ (t.reg x).toNat = n ∧ (x ≠ 0xF → (t.reg 0xF).toNat = m) ∧ t.pc = s.pc + 2 ∧
      Frame { regs := [x, 0xF] } s t := by
  obtain ⟨t, hnext, hresult, hflag, hrest⟩ := putsFlagResult_of_exec_eq hexec hb rfl
  exact ⟨t, hnext, hresult, fun hx => (congrArg BitVec.toNat (hflag hx)).trans hf, hrest⟩

/-- Settles O39: each shift puts the shifted byte over the bit shifted out, and its equation is the same for every y. -/
theorem shiftsMoveOneBit : Obligations.ShiftsMoveOneBit :=
  ⟨encodedAs_xy 0x8 0x6 .shrVx, encodedAs_xy 0x8 0xE .shlVx, fun x y s =>
    ⟨putsFlagResult_toNat_of_exec_eq (exec_shrVx x y s) (toNat_byte_shiftRight_one _) (toNat_lowBitFlag _),
      putsFlagResult_toNat_of_exec_eq (exec_shlVx x y s) (toNat_byte_shiftLeft_one _) (toNat_highBitFlag _),
      fun z => ⟨(exec_shrVx x z s).trans (exec_shrVx x y s).symm, (exec_shlVx x z s).trans (exec_shlVx x y s).symm⟩⟩⟩

end Sys2Proof.Machine
end

section
/-! PROOFS. The address register and the transfers through it (spec/44_index_memory.md): what each form writes to I, and
what a transfer that fits leaves in memory or in the registers. A transfer past the end is with memory, above. -/

namespace Sys2Proof.Machine

/-! ## I as the destination (R140 to R142) -/

section AddressRegister
variable (nnn : Addr12) (x : Nibble) (s : State)

theorem exec_ldINnn : exec (.ldINnn nnn) s = .next ({ s with i := zextAddr nnn }.advance 2) := rfl

theorem exec_addIVx : exec (.addIVx x) s = .next ({ s with i := s.i + zextByte (s.reg x) }.advance 2) := rfl

theorem exec_ldFVx : exec (.ldFVx x) s =
    .next ({ s with i := BitVec.ofNat 16 (Config.fontBase + 5 * (s.reg x).toNat) }.advance 2) := rfl

/-- The largest glyph address, 0x050 + 5 * 255, is far below 65536: nothing is reduced. -/
theorem toNat_glyphAddress (b : Byte) :
    (BitVec.ofNat 16 (Config.fontBase + 5 * b.toNat)).toNat = 0x050 + 5 * b.toNat := by
  have hbyte : b.toNat < 256 := b.isLt
  have hbase : Config.fontBase = 0x050 := rfl
  rw [BitVec.toNat_ofNat, hbase]
  omega

theorem toNat_add_zextByte (w : Word) (b : Byte) : (w + zextByte b).toNat = (w.toNat + b.toNat) % 65536 := by
  have hbyte : (zextByte b).toNat = b.toNat := BitVec.toNat_setWidth_of_le (by decide)
  rw [BitVec.toNat_add, hbyte]

/-- An instruction that answers with another I and the next pc: what I holds, and that nothing else changed. -/
theorem writesI_of_exec_eq {i : Instr} {w : Word} {n : Nat} (hexec : exec i s = .next ({ s with i := w }.advance 2))
    (hw : w.toNat = n) : ∃ t, exec i s = .next t ∧ t.i.toNat = n ∧ t.pc = s.pc + 2 ∧ Frame { i := true } s t :=
  ⟨_, hexec, hw, rfl, ((Frame.refl _ s).withI rfl w).advance 2⟩

end AddressRegister

/-- Settles O41: the two values loaded, read as numbers. -/
theorem addressRegisterLoads : Obligations.AddressRegisterLoads :=
  ⟨encodedAs_nnn 0xA .ldINnn, encodedAs_x 0xF 0x29 .ldFVx, fun nnn x s =>
    ⟨writesI_of_exec_eq s (exec_ldINnn nnn s) (toNat_zextAddr nnn),
      writesI_of_exec_eq s (exec_ldFVx x s) (toNat_glyphAddress (s.reg x))⟩⟩

/-- Settles O42: a sum of words is reduced modulo 65536, and no register is written beside I. -/
theorem addToAddressRegister : Obligations.AddToAddressRegister :=
  ⟨encodedAs_x 0xF 0x1E .addIVx, fun x s =>
    writesI_of_exec_eq s (exec_addIVx x s) (toNat_add_zextByte s.i (s.reg x))⟩

/-! ## Stores at I (R143, R144) -/

section Stores
variable {s : State}

theorem exec_ldBVx_of_fits (x : Nibble) (hfits : s.i.toNat + 2 ≤ 4095) :
    exec (.ldBVx x) s = .next ((s.storeAtI (bcdDigits (s.reg x))).advance 2) :=
  settle_checkedTransfer_of_fits _ (Nat.succ_le_succ hfits)

/-- Each decimal digit of a byte fits in the byte it is stored as. -/
theorem toNat_bcdDigits (b : Byte) :
    (bcdDigits b).map BitVec.toNat = [b.toNat / 100, b.toNat / 10 % 10, b.toNat % 10] := by
  have hbyte : b.toNat < 256 := b.isLt
  have hdigit : ∀ n < 256, (BitVec.ofNat 8 n).toNat = n := fun n hn => Nat.mod_eq_of_lt hn
  rw [bcdDigits, List.map_cons, List.map_cons, List.map_singleton, hdigit _ (by omega), hdigit _ (by omega),
    hdigit _ (by omega)]

theorem State.toNat_read_storeAtI_bcdDigits {b : Byte} {k n : Nat} (hwf : s.mem.wf = true)
    (hfits : s.i.toNat + 2 ≤ 4095) (hn : [b.toNat / 100, b.toNat / 10 % 10, b.toNat % 10][k]? = some n) :
    ((s.storeAtI (bcdDigits b)).mem.read (s.i.toNat + k)).toNat = n := by
  rw [← toNat_bcdDigits, List.getElem?_map, Option.map_eq_some_iff] at hn
  obtain ⟨digit, hdigit, hvalue⟩ := hn
  obtain ⟨hk, hget⟩ := List.getElem?_eq_some_iff.1 hdigit
  have hroom : s.i.toNat + (bcdDigits b).length ≤ Config.memSize := Nat.succ_le_succ hfits
  have hread : (s.storeAtI (bcdDigits b)).mem.read (s.i.toNat + k) = (bcdDigits b)[k] :=
    Memory.read_writeBytes _ hwf hroom hk
  rw [hread, hget, hvalue]

/-- The frame of a store: the bytes it writes are the only difference. -/
theorem State.frame_advance_storeAtI (s : State) {bytes : List Byte} {n : Nat} (hlen : bytes.length = n) :
    Frame { storeAt := s.i.toNat, stored := n } s ((s.storeAtI bytes).advance 2) :=
  ((Frame.refl _ s).storeAtI rfl hlen.symm).advance 2

end Stores

/-- Settles O43: the three bytes stored are the digits, and each byte stored is read back at its place. -/
theorem bcdStoresThreeDigits : Obligations.BcdStoresThreeDigits :=
  ⟨encodedAs_x 0xF 0x33 .ldBVx, fun x s hwf hfits =>
    ⟨_, exec_ldBVx_of_fits x hfits, State.toNat_read_storeAtI_bcdDigits (k := 0) hwf hfits rfl,
      State.toNat_read_storeAtI_bcdDigits (k := 1) hwf hfits rfl,
      State.toNat_read_storeAtI_bcdDigits (k := 2) hwf hfits rfl, rfl,
      s.frame_advance_storeAtI (length_bcdDigits _)⟩⟩

/-- Settles O44: byte r of the transfer is V[r], and there are x + 1 of them. -/
theorem storeWritesRegistersToMemory : Obligations.StoreWritesRegistersToMemory :=
  ⟨encodedAs_x 0xF 0x55 .ldMemIVx, fun x s hwf hfits =>
    ⟨_, exec_ldMemIVx_of_fits hfits, fun _ hr => State.read_storeAtI_regsUpTo hwf hfits hr, rfl,
      s.frame_advance_storeAtI (s.length_regsUpTo x)⟩⟩

/-! ## The load at I (R145), alone and after the store (R147) -/

section Loads
variable (s : State) {x r : Nibble}

theorem exec_ldVxMemI_of_fits {s : State} (hfits : s.i.toNat + x.toNat ≤ 4095) :
    exec (.ldVxMemI x) s = .next ((s.loadAtI x).advance 2) :=
  settle_checkedTransfer_of_fits _ (Nat.succ_le_succ hfits)

theorem State.reg_loadAtI_of_le (hr : r.toNat ≤ x.toNat) :
    (s.loadAtI x).reg r = s.mem.read (s.i.toNat + r.toNat) :=
  (s.reg_loadAtI x r).trans (if_pos hr)

theorem State.reg_loadAtI_of_gt (hr : x.toNat < r.toNat) : (s.loadAtI x).reg r = s.reg r :=
  (s.reg_loadAtI x r).trans (if_neg (Nat.not_le.2 hr))

theorem State.frame_advance_loadAtI (x : Nibble) :
    Frame { regs := (List.range (x.toNat + 1)).map (BitVec.ofNat 4) } s ((s.loadAtI x).advance 2) :=
  ((Frame.refl _ s).loadAtI fun r => (mem_registersUpTo x r).2).advance 2

end Loads

/-- Settles O45: V[0] to V[x], and no register above, come from the bytes at I. -/
theorem loadReadsRegistersFromMemory : Obligations.LoadReadsRegistersFromMemory := by
  refine ⟨encodedAs_x 0xF 0x65 .ldVxMemI, fun x s hfits =>
    ⟨_, exec_ldVxMemI_of_fits hfits, fun r hr => ?_, fun r hr => ?_, ?_, s.frame_advance_loadAtI x⟩⟩
  · rw [State.reg_advance, s.reg_loadAtI_of_le hr]
  · rw [State.reg_advance, s.reg_loadAtI_of_gt hr]
  · rw [State.advance_pc, State.loadAtI_pc]

/-- Settles O47: the store leaves I, so the load fits too, and V[r] goes to byte I + r, is still there, and comes
back. -/
theorem storeThenLoadRestoresRegisters : Obligations.StoreThenLoadRestoresRegisters := by
  intro x s hwf hfits
  refine ⟨_, exec_ldMemIVx_of_fits hfits, fun u hi hkept => ?_⟩
  rw [State.advance_i, State.storeAtI_i] at hi
  refine ⟨_, exec_ldVxMemI_of_fits (hi ▸ hfits), fun r hr => ?_⟩
  calc ((u.loadAtI x).advance 2).reg r
    _ = u.mem.read (s.i.toNat + r.toNat) := by rw [State.reg_advance, u.reg_loadAtI_of_le hr, hi]
    _ = (s.storeAtI (s.regsUpTo x)).mem.read (s.i.toNat + r.toNat) := hkept r hr
    _ = s.reg r := State.read_storeAtI_regsUpTo hwf hfits hr

end Sys2Proof.Machine
end

section
/-! PROOFS. CLS and DRW (spec/45_display.md): the state after a draw read pixel by pixel, VF as the collision, and the
same sprite drawn twice. -/

namespace Sys2Proof.Machine

/-! ## CLS (R150) -/

theorem exec_cls (s : State) : exec .cls s = .next ((s.setScreen (Vector.replicate 32 0)).advance 2) := rfl

theorem pixel_replicate_zero (x : Fin 64) (y : Fin 32) : pixel (Vector.replicate 32 0) x y = false := by
  rw [pixel, Fin.getElem_fin, Vector.getElem_replicate]
  exact BitVec.getLsbD_zero

/-- Settles O49: every row is replaced by the row of no set bit. -/
theorem clearTurnsEveryPixelOff : Obligations.ClearTurnsEveryPixelOff :=
  ⟨encodedAs_fixed .cls, fun s =>
    ⟨_, exec_cls s, pixel_replicate_zero, rfl, ((Frame.refl _ s).setScreen rfl _).advance 2⟩⟩

/-! ## The state after a draw (R151, R152, R155) -/

/-- What DRW leaves where its sprite lies in memory. -/
def State.afterDraw (s : State) (x y n : Nibble) : State :=
  ((s.setScreen (s.drawing x y n).fb).setReg vf (flag (s.drawing x y n).collision)).advance 2

theorem flag_eq_one_iff (p : Bool) : flag p = 0x01 ↔ p = true := by cases p <;> decide

theorem flag_eq_one_or_zero (p : Bool) : flag p = 0x01 ∨ flag p = 0x00 := by cases p <;> decide

section AfterDraw
variable (s : State) (x y n : Nibble)

theorem State.pixel_afterDraw (px : Fin 64) (py : Fin 32) : pixel (s.afterDraw x y n).fb px py =
    (pixel s.fb px py ^^ spriteCovers (s.reg x).toNat (s.reg y).toNat (s.spriteAtI n) px py) := by
  obtain ⟨hlen, hn⟩ := s.length_spriteAtI n
  exact pixel_drawSprite _ _ _ _ (by omega) px py

theorem State.reg_vf_afterDraw : (s.afterDraw x y n).reg 0xF = flag (s.drawing x y n).collision :=
  State.reg_setReg_self _ vf _

/-- A set bit meets a lit pixel exactly where the XOR turns a lit pixel off. -/
theorem State.reg_vf_afterDraw_eq_one_iff : (s.afterDraw x y n).reg 0xF = 0x01 ↔
    ∃ px py, pixel s.fb px py = true ∧ pixel (s.afterDraw x y n).fb px py = false := by
  obtain ⟨hlen, hn⟩ := s.length_spriteAtI n
  rw [s.reg_vf_afterDraw, flag_eq_one_iff, State.drawing, collision_drawSprite _ _ _ _ (by omega)]
  refine exists_congr fun px => exists_congr fun py => ?_
  rw [s.pixel_afterDraw, and_comm]
  refine and_congr_right fun hlit => ?_
  rw [hlit, Bool.true_xor, Bool.not_eq_false']

theorem State.reg_vf_afterDraw_eq_one_or_zero :
    (s.afterDraw x y n).reg 0xF = 0x01 ∨ (s.afterDraw x y n).reg 0xF = 0x00 := by
  rw [s.reg_vf_afterDraw]
  exact flag_eq_one_or_zero _

theorem State.frame_afterDraw : Frame { regs := [0xF], screen := true } s (s.afterDraw x y n) :=
  (((Frame.refl _ s).setScreen rfl _).setReg (List.mem_singleton_self vf) _).advance 2

end AfterDraw

/-! ## DRW (R152, R157) -/

theorem exec_drw (x y n : Nibble) (s : State) :
    exec (.drw x y n) s = settle s (s.checkedTransfer n.toNat (s.afterDraw x y n)) := rfl

/-- A sprite of no rows fits wherever I points. -/
theorem exec_drw_of_fits {n : Nibble} {s : State} (x y : Nibble)
    (hfits : n = 0x0 ∨ s.i.toNat + (n.toNat - 1) ≤ 4095) : exec (.drw x y n) s = .next (s.afterDraw x y n) := by
  rw [exec_drw]
  rcases s.checkedTransfer_cases n.toNat (s.afterDraw x y n) with ⟨hsome, hend, -⟩ | ⟨-, hdone⟩
  · rcases hfits with rfl | hle
    · exact absurd hsome (by decide)
    · omega
  · rw [hdone, settle_done]

/-- Settles O50: the composition is an XOR on every pixel, and a range that ends above 4095 raises before it. -/
theorem drawXorsTheSprite : Obligations.DrawXorsTheSprite := by
  refine ⟨encodedAs_xyn 0xD .drw, fun x y n s => ⟨fun hfits => ?_, fun hsome hend => ?_⟩⟩
  · exact ⟨_, exec_drw_of_fits x y hfits, s.pixel_afterDraw x y n, s.reg_vf_afterDraw_eq_one_or_zero x y n,
      s.reg_vf_afterDraw_eq_one_iff x y n, rfl, s.frame_afterDraw x y n⟩
  · exact settle_checkedTransfer_of_pastEnd _ hsome (by omega)

theorem State.drawing_zero (s : State) (x y : Nibble) : s.drawing x y 0x0 = ⟨s.fb, false⟩ := rfl

theorem State.afterDraw_zero (s : State) (x y : Nibble) : s.afterDraw x y 0x0 = (s.setReg vf 0x00).advance 2 := by
  rw [State.afterDraw, s.drawing_zero]
  rfl

/-- Settles O52: a sprite of no rows is composed onto nothing, so the screen is the old one and no collision is left in
VF. -/
theorem drawOfZeroRowsClearsVf : Obligations.DrawOfZeroRowsClearsVf := by
  intro x y s
  refine ⟨_, exec_drw_of_fits x y (.inl rfl), ?_⟩
  rw [s.afterDraw_zero]
  exact ⟨State.reg_setReg_self s vf 0x00, rfl, ((Frame.refl _ s).setReg (List.mem_singleton_self vf) _).advance 2⟩

/-! ## The same sprite twice (R158) -/

section DrawTwice
variable {s : State} {x y x' y' n : Nibble}

/-- A draw leaves I and memory, so the next one reads the same rows. -/
theorem State.spriteAtI_afterDraw (m : Nibble) : (s.afterDraw x y n).spriteAtI m = s.spriteAtI m := rfl

/-- Two XORs with the same bits cancel. -/
theorem State.pixel_afterDraw_afterDraw (hx : (s.afterDraw x y n).reg x' = s.reg x)
    (hy : (s.afterDraw x y n).reg y' = s.reg y) (px : Fin 64) (py : Fin 32) :
    pixel ((s.afterDraw x y n).afterDraw x' y' n).fb px py = pixel s.fb px py := by
  rw [State.pixel_afterDraw, State.pixel_afterDraw, State.spriteAtI_afterDraw, hx, hy, Bool.xor_assoc,
    Bool.xor_self, Bool.xor_false]

/-- On a blank screen there is no lit pixel to turn off (S6). -/
theorem State.reg_vf_afterDraw_of_blank (hblank : ∀ px py, pixel s.fb px py = false) :
    (s.afterDraw x y n).reg 0xF = 0x00 := by
  refine (s.reg_vf_afterDraw_eq_one_or_zero x y n).resolve_left fun hone => ?_
  obtain ⟨px, py, hlit, -⟩ := (s.reg_vf_afterDraw_eq_one_iff x y n).1 hone
  exact Bool.false_ne_true ((hblank px py).symm.trans hlit)

end DrawTwice

/-- Settles O51: the second draw fits and XORs the same bits again; from a blank screen it turns off all that the first
one lit. -/
theorem drawTwiceRestoresTheScreen : Obligations.DrawTwiceRestoresTheScreen := by
  intro x y n s hfits
  refine ⟨_, exec_drw_of_fits x y hfits, fun x' y' hx hy => ?_⟩
  have hrestored := State.pixel_afterDraw_afterDraw hx hy
  refine ⟨_, exec_drw_of_fits x' y' hfits, hrestored, fun hblank => ⟨State.reg_vf_afterDraw_of_blank hblank, ?_⟩⟩
  simp only [State.reg_vf_afterDraw_eq_one_iff, hrestored, hblank, and_true]

end Sys2Proof.Machine
end

section
/-! PROOFS. Keypad and timers (spec/46_keypad_timer.md): the key tests with their fault, the key wait, the loads of the
timers, the Tick, and what can make a timer rise. -/

namespace Sys2Proof.Machine

/-! ## What an event can do to the timers (R167, R168) -/

section TimerCases
variable {e : Event} {s t u : State}

/-- An operation that is refused where `p` holds answers a next state only by doing what it was to do. -/
theorem eq_of_ite_refused_eq_next {p : Prop} [Decidable p] {r : Refusal}
    (h : (if p then Host.Outcome.refused r else .next u : Result) = .next t) : t = u := by
  split at h
  · nomatch h
  · exact (Host.Outcome.next.inj h).symm

/-- Everything an event that answers `t` from `s` can have done to the timers: raise neither, as Tick, Reset and all
that leaves them alone do; run an instruction; or write one of them for the host. -/
inductive TimerCase (e : Event) (s t : State) : Prop
  | noneRaised (hdt : t.dt.toNat ≤ s.dt.toNat) (hst : t.st.toNat ≤ s.st.toNat)
  | ran {w : Word} {i : Instr} (he : e = .cycle) (hfetch : s.fetch = some w) (hdecode : decodeWord w = .instr i)
      (hexec : exec i s = .next t)
  | wroteDt {b : Byte} (he : e = .writeDt b) (hst : t.st = s.st)
  | wroteSt {b : Byte} (he : e = .writeSt b) (hdt : t.dt = s.dt)

theorem TimerCase.kept (hdt : t.dt = s.dt) (hst : t.st = s.st) : TimerCase e s t :=
  .noneRaised (Nat.le_of_eq (congrArg BitVec.toNat hdt)) (Nat.le_of_eq (congrArg BitVec.toNat hst))

theorem TimerCase.of_next (h : (.next u : Result) = .next t) (hu : TimerCase e s u) : TimerCase e s t :=
  Host.Outcome.next.inj h ▸ hu

/-- A cycle that runs no instruction leaves the timers alone. -/
theorem TimerCase.of_step (h : step s = .next t) : TimerCase .cycle s t := by
  cases step_cases h with
  | frozen hf ht => exact ht ▸ .kept rfl rfl
  | fetchFault hclear hpc ht => exact ht ▸ .kept rfl rfl
  | instr hclear hpc hfetch hdecode hexec => exact .ran rfl hfetch hdecode hexec
  | unmatchedNop hclear hpc hfetch hdecode hpolicy ht => exact ht ▸ .kept rfl rfl
  | unmatchedFault hclear hfetch hdecode hpolicy ht => exact ht ▸ .kept rfl rfl

theorem countDown_le (b : Byte) : (countDown b).toNat ≤ b.toNat := by
  rw [toNat_countDown]
  exact Nat.sub_le _ 1

theorem event_timerCase (h : event e s = .next t) : TimerCase e s t := by
  cases e with
  | reset => exact .of_next h (.noneRaised (Nat.zero_le _) (Nat.zero_le _))
  | cycle => exact .of_step h
  | tick => exact .of_next h (.noneRaised (countDown_le _) (countDown_le _))
  | writeDt b => exact .of_next h (.wroteDt rfl rfl)
  | writeSt b => exact .of_next h (.wroteSt rfl rfl)
  | load | writeSp | writeByte => exact eq_of_ite_refused_eq_next h ▸ .kept rfl rfl
  | setPressed | writeV | writeI | writePc | writeStk | hostRead | clearFault => exact .of_next h (.kept rfl rfl)

end TimerCases

/-- Settles O57: of all that an event can do, only a host write and an executed instruction raise a timer, and an
instruction that changes DT or ST is named by that change (O24). -/
theorem timersRiseOnlyWhenWritten : Obligations.TimersRiseOnlyWhenWritten := by
  intro e s t h
  cases event_timerCase h with
  | noneRaised hdt hst => exact ⟨fun hrise => absurd hdt hrise.not_ge, fun hrise => absurd hst hrise.not_ge⟩
  | @ran w i he hfetch hdecode hexec =>
    obtain ⟨-, -, -, -, -, hdt, hst, -⟩ := changesNameTheInstruction i s t hexec
    constructor
    · intro hrise
      obtain ⟨x, rfl⟩ := hdt (ne_of_apply_ne BitVec.toNat hrise.ne')
      exact .inr ⟨he, w, x, hfetch, hdecode⟩
    · intro hrise
      obtain ⟨x, rfl⟩ := hst (ne_of_apply_ne BitVec.toNat hrise.ne')
      exact .inr ⟨he, w, x, hfetch, hdecode⟩
  | wroteDt he hst => exact ⟨fun _ => .inl ⟨_, he⟩, fun hrise => absurd (congrArg BitVec.toNat hst) hrise.ne'⟩
  | wroteSt he hdt => exact ⟨fun hrise => absurd (congrArg BitVec.toNat hdt) hrise.ne', fun _ => .inl ⟨_, he⟩⟩

/-! ## The key tests (R160, R161, R166) -/

section KeyTests
variable {s : State} {x k : Nibble}

theorem exec_skp (x : Nibble) (s : State) : exec (.skp x) s = settle s (s.keySkip x true) := rfl

theorem exec_sknp (x : Nibble) (s : State) : exec (.sknp x) s = settle s (s.keySkip x false) := rfl

theorem State.keySkip_of_key (wanted : Bool) (hk : k.toNat = (s.reg x).toNat) :
    s.keySkip x wanted = .done (s.skipIf (s.key k == wanted)) := by
  have hlow : (s.reg x).setWidth 4 = k := by bv_omega
  have hlegal : ¬ (s.reg x).toNat > 15 := by omega
  rw [State.keySkip, if_neg hlegal, hlow]

theorem State.keySkip_of_gt (wanted : Bool) (hgt : 15 < (s.reg x).toNat) :
    s.keySkip x wanted = .raised .keyIndexOutOfRange (s.reg x).toNat :=
  if_pos hgt

theorem exec_skp_of_key (hk : k.toNat = (s.reg x).toNat) :
    exec (.skp x) s = .next (s.skipIf (s.key k == true)) := by
  rw [exec_skp, State.keySkip_of_key true hk, settle_done]

theorem exec_sknp_of_key (hk : k.toNat = (s.reg x).toNat) :
    exec (.sknp x) s = .next (s.skipIf (s.key k == false)) := by
  rw [exec_sknp, State.keySkip_of_key false hk, settle_done]

theorem settle_keySkip_of_gt (wanted : Bool) (hgt : 15 < (s.reg x).toNat) :
    settle s (s.keySkip x wanted) = .next (takeFault .keyIndexOutOfRange (s.reg x).toNat s) := by
  rw [State.keySkip_of_gt wanted hgt, settle_raised]

end KeyTests

/-- Settles O53: on a key number both are skips, SKP on the key being pressed and SKNP on its not being pressed; above
15 both raise before the key is looked at (decision D9). -/
theorem keyTestSkipsOrFaults : Obligations.KeyTestSkipsOrFaults := by
  refine ⟨encodedAs_x 0xE 0x9E .skp, encodedAs_x 0xE 0xA1 .sknp, fun x s => ⟨fun k hk => ⟨?_, ?_⟩, fun hgt =>
    ⟨settle_keySkip_of_gt true hgt, settle_keySkip_of_gt false hgt⟩⟩⟩
  · exact skips_of_exec_eq (exec_skp_of_key hk) beq_iff_eq
  · have hreleased : (s.key k == false) = true ↔ ¬ s.key k = true := by rw [beq_iff_eq, Bool.not_eq_true]
    simpa only [ite_not] using skips_of_exec_eq (exec_sknp_of_key hk) hreleased

/-! ## The key wait (R162) -/

section KeyWait
variable {s : State} (x : Nibble)

theorem exec_ldVxK_of_some {k : Nibble} (hkey : s.firstPressed = some k) :
    exec (.ldVxK x) s = .next (s.putResult x (k.setWidth 8)) := by
  change execLdVxK x s = _
  simp only [execLdVxK, hkey, settle_done]

theorem exec_ldVxK_of_none (hkey : s.firstPressed = none) : exec (.ldVxK x) s = .next s := by
  change execLdVxK x s = _
  simp only [execLdVxK, hkey, settle_done]

end KeyWait

/-- Settles O54: the scan answers the least pressed key, or nothing while none is pressed. -/
theorem keyWaitTakesTheLeastKey : Obligations.KeyWaitTakesTheLeastKey := by
  refine ⟨encodedAs_x 0xF 0x0A .ldVxK, fun x s => ⟨fun k hpressed hleast => ?_, fun hnone => ?_⟩⟩
  · have hkey : s.firstPressed = some k := (s.firstPressed_eq_some k).2 ⟨hpressed, hleast⟩
    refine ⟨_, exec_ldVxK_of_some x hkey, ?_, rfl, s.frame_putResult x _⟩
    rw [State.reg_putResult_self]
    exact BitVec.toNat_setWidth_of_le (by decide)
  · exact exec_ldVxK_of_none x (s.firstPressed_eq_none.2 hnone)

/-! ## The timer registers (R163 to R165) and the Tick (R167) -/

section TimerEquations
variable (x : Nibble) (s : State)

theorem exec_ldVxDt : exec (.ldVxDt x) s = .next (s.putResult x s.dt) := rfl

theorem exec_ldDtVx : exec (.ldDtVx x) s = .next ({ s with dt := s.reg x }.advance 2) := rfl

theorem exec_ldStVx : exec (.ldStVx x) s = .next ({ s with st := s.reg x }.advance 2) := rfl

theorem event_tick : event .tick s = .next (tick s) := rfl

theorem frame_tick : Frame { dt := true, st := true } s (tick s) :=
  ((Frame.refl _ s).withDt rfl (countDown s.dt)).withSt rfl (countDown s.st)

end TimerEquations

/-- Settles O55: one load puts DT as a result, the other two replace a timer by V[x]. -/
theorem timerRegistersMove : Obligations.TimerRegistersMove :=
  ⟨encodedAs_x 0xF 0x07 .ldVxDt, encodedAs_x 0xF 0x15 .ldDtVx, encodedAs_x 0xF 0x18 .ldStVx, fun x s =>
    ⟨⟨_, exec_ldVxDt x s, s.reg_putResult_self x _, rfl, s.frame_putResult x _⟩,
      ⟨_, exec_ldDtVx x s, rfl, rfl, ((Frame.refl _ s).withDt rfl _).advance 2⟩,
      ⟨_, exec_ldStVx x s, rfl, rfl, ((Frame.refl _ s).withSt rfl _).advance 2⟩⟩⟩

/-- Settles O56: each timer counts down by one as a number, and the Tick does not look at the latch. -/
theorem tickCountsBothTimersDown : Obligations.TickCountsBothTimersDown := fun s =>
  ⟨_, event_tick s, toNat_countDown s.dt, toNat_countDown s.st, rfl, frame_tick s⟩

end Sys2Proof.Machine
end

section
/-! PROOFS. The state after Reset (spec/10_state.md R42, 70_reset_and_hazards.md R195): its values, whatever the
parameters, and the two invariants there. -/

namespace Sys2Proof.Machine

/-! ## Memory after Reset with the default FONT (R51, R52) -/

/-- Bytes equal to the reset contents are not listed. -/
theorem Memory.writeBytes_nil_of_resetBytes {a : Nat} {bytes : List Byte}
    (h : ∀ (k : Nat) (hk : k < bytes.length), bytes[k] = Memory.resetByte (a + k)) :
    Memory.writeBytes [] a bytes = [] := by
  induction bytes generalizing a with
  | nil => rfl
  | cons b bytes ih =>
    have hfirst : Memory.write [] a b = [] := if_pos (h 0 (Nat.succ_pos _))
    rw [Memory.writeBytes, hfirst]
    refine ih fun k hk => ?_
    rw [Nat.add_right_comm]
    exact h (k + 1) (Nat.succ_lt_succ hk)

theorem Memory.resetByte_font {k : Nat} (hk : k < Config.font.length) :
    Memory.resetByte (Config.fontBase + k) = Config.font[k] := by
  rw [Memory.resetByte, if_pos (Nat.le_add_right _ _), Nat.add_sub_cancel_left, List.getD_eq_getElem _ _ hk]

theorem State.reset_eq_resetWith :
    State.reset = State.resetWith Config.defaultFont .nop State.reset.rndDraws := by
  have hmem : Memory.writeBytes [] Config.fontBase Config.defaultFont.toList = [] :=
    Memory.writeBytes_nil_of_resetBytes fun _ hk => (Memory.resetByte_font hk).symm
  rw [State.resetWith, hmem]
  rfl

/-! ## Registers, slots, keys and pixels after Reset (R42) -/

section ResetValues
variable {s : State}

theorem State.reg_of_reset (hv : s.v = State.reset.v) (r : Nibble) : s.reg r = 0x00 := by
  rw [State.reg_congr hv]
  exact Vector.getElem_replicate _

theorem State.slot_of_reset (hstk : s.stk = State.reset.stk) (k : Nibble) : s.slot k = 0x0000 := by
  rw [State.slot_congr hstk]
  exact Vector.getElem_replicate _

theorem State.key_of_reset (hkeys : s.keys = State.reset.keys) (k : Nibble) : s.key k = false := by
  rw [State.key_congr hkeys]
  exact Vector.getElem_replicate _

end ResetValues

theorem event_reset (s : State) : event .reset s = .next (resetEvent s) := rfl

/-- Settles O9: every field but memory is a constant of `State.reset`; memory is the font written into zeros, and the
default font writes nothing that is not there already. -/
theorem resetLeavesTheListedValues : Obligations.ResetLeavesTheListedValues :=
  ⟨State.reset_eq_resetWith, fun font policy draws =>
    ⟨State.reg_of_reset rfl, rfl, rfl, rfl, State.slot_of_reset rfl, rfl, rfl, State.key_of_reset rfl,
      pixel_replicate_zero, fun _ hout => State.read_resetWith_of_out font policy draws hout,
      fun _ hj => State.read_resetWith_font font policy draws hj, rfl, rfl, rfl, rfl⟩⟩

/-- Settles O10: the event takes every field but the keys from the reset state with the parameters of `s`. -/
theorem resetEventErasesEverything : Obligations.ResetEventErasesEverything := fun s =>
  ⟨_, event_reset s, State.reg_of_reset rfl, rfl, rfl, rfl, State.slot_of_reset rfl, rfl, rfl,
    pixel_replicate_zero, fun _ hout => State.read_resetWith_of_out s.font s.policy s.rndDraws hout,
    fun _ hj => State.read_resetWith_font s.font s.policy s.rndDraws hj, rfl, rfl, rfl, rfl, rfl⟩

/-! ## The invariants after Reset -/

theorem State.inv_resetWith (font : Vector Byte 80) (policy : UnmatchedPolicy) (draws : Nat) :
    (State.resetWith font policy draws).Inv :=
  ⟨State.wf_resetWith font policy draws, Nat.zero_le _, rfl⟩

theorem State.pcBounded_resetWith (font : Vector Byte 80) (policy : UnmatchedPolicy) (draws : Nat) :
    (State.resetWith font policy draws).PcBounded := by
  have hpc : Config.resetPc.toNat ≤ 0x10FE := by decide
  refine ⟨hpc, fun k => ?_⟩
  rw [State.slot_of_reset (s := State.resetWith font policy draws) rfl]
  exact Nat.zero_le _

/-- Settles O11: the font lies inside memory, SP and the slots are 0, and the latch is clear. -/
theorem invariantsHoldAtReset : Obligations.InvariantsHoldAtReset := by
  rw [Obligations.InvariantsHoldAtReset, State.reset_eq_resetWith]
  exact ⟨State.inv_resetWith _ _ _, State.pcBounded_resetWith _ _ _, fun font policy draws =>
    ⟨State.inv_resetWith font policy draws, State.pcBounded_resetWith font policy draws⟩⟩

end Sys2Proof.Machine
end

section
/-! PROOFS. The machine invariant under every event and every sequence of events (spec/70_reset_and_hazards.md R200,
R202). -/

namespace Sys2Proof.Machine

/-- An operation that is refused where `p` holds and answers a next state was made where `p` does not hold. -/
theorem not_of_ite_refused_eq_next {p : Prop} [Decidable p] {r : Refusal} {t u : State}
    (h : (if p then Host.Outcome.refused r else .next u : Result) = .next t) : ¬ p := by
  intro hp
  rw [if_pos hp] at h
  nomatch h

/-- Settles O13: the cycle keeps the invariant by O12, Reset makes it hold, the guarded writes of memory and SP stay in
range, and no other event touches memory, SP or a set latch but ClearFault, which leaves a clear one. -/
theorem everyEventKeepsInvariant : Obligations.EveryEventKeepsInvariant := by
  intro e s t hs h
  have ⟨hwf, hsp, hlegal⟩ := hs
  cases e with
  | reset => exact Host.Outcome.next.inj h ▸ State.inv_resetWith s.font s.policy s.rndDraws
  | cycle => exact stepKeepsInvariant s t hs h
  | load bytes =>
    have hfits : bytes.length ≤ 3584 := Nat.not_lt.1 (not_of_ite_refused_eq_next h)
    have hroom : 0x200 + bytes.length ≤ Config.memSize := Nat.add_le_add_left hfits 0x200
    exact eq_of_ite_refused_eq_next h ▸ ⟨Memory.wf_writeBytes bytes hwf hroom, hsp, hlegal⟩
  | writeByte a b =>
    have hroom : a < Config.memSize := Nat.lt_succ_of_le (Nat.not_lt.1 (not_of_ite_refused_eq_next h))
    exact eq_of_ite_refused_eq_next h ▸ ⟨Memory.wf_write b hwf hroom, hsp, hlegal⟩
  | writeSp b =>
    exact eq_of_ite_refused_eq_next h ▸ ⟨hwf, Nat.not_lt.1 (not_of_ite_refused_eq_next h), hlegal⟩
  | clearFault => exact Host.Outcome.next.inj h ▸ ⟨hwf, hsp, rfl⟩
  | tick | setPressed | writeV | writeI | writePc | writeStk | writeDt | writeSt | hostRead =>
    exact Host.Outcome.next.inj h ▸ hs

/-- A refused operation changes nothing, so it keeps the invariant too (R182). -/
theorem afterEvent_keeps_inv {s : State} (hs : s.Inv) (e : Event) : (afterEvent s e).Inv := by
  unfold afterEvent
  split
  · next t h => exact everyEventKeepsInvariant e s t hs h
  · exact hs
  · exact hs

/-- Settles O14, by induction on the sequence, from whatever state the events before it left. -/
theorem everySequenceOfEventsKeepsInvariant : Obligations.EverySequenceOfEventsKeepsInvariant := by
  intro es
  induction es with
  | nil => exact fun _ hs => hs
  | cons e es ih => exact fun s hs => ih (afterEvent s e) (afterEvent_keeps_inv hs e)

end Sys2Proof.Machine
end

section
/-! PROOFS. The cycle with its faults (spec/60_exceptions.md, 70_reset_and_hazards.md section 3): which instruction a
step runs, that it always answers, what a latched fault says, and the states the cycle leaves as they are. -/

namespace Sys2Proof.Machine

/-! ## The latch read as a pair (R170, R177) -/

/-- The cause with a code of R170 (decision D8). A number that is no code of R170 gets the last cause. -/
def FaultCause.ofCode : Nat → FaultCause
  | 1 => .fetchOutOfBounds
  | 2 => .outOfBounds
  | 3 => .stackOverflow
  | 4 => .stackUnderflow
  | 5 => .decodeError
  | _ => .keyIndexOutOfRange

theorem FaultCause.ofCode_code : Function.LeftInverse FaultCause.ofCode FaultCause.code := by
  intro c
  cases c <;> rfl

/-- Settles O60: the cause is read back from its code. -/
theorem latchReadsAsCodeAndInfo : Obligations.LatchReadsAsCodeAndInfo :=
  ⟨fun _ hclear => congrArg (Option.map _) hclear, fun _ _ hf => congrArg (Option.map _) hf, rfl, rfl, rfl, rfl, rfl,
    rfl, fun _ _ hcode => FaultCause.ofCode_code.injective hcode⟩

/-! ## What a step runs (R201, R203), and where it changes nothing (R177, R213) -/

/-- Settles O17: with the latch clear and a word to fetch, the step is `exec` of what the word decodes to. -/
theorem stepRunsTheDecodedInstruction : Obligations.StepRunsTheDecodedInstruction :=
  fun _ _ hclear hpc hdecode => step_of_instr hclear (State.fetch_of_pc_le hpc) hdecode

/-- Settles O20: a set latch holds a record, and the cycle stops at it. -/
theorem setLatchFreezesTheCycle : Obligations.SetLatchFreezesTheCycle := by
  intro s hset
  obtain ⟨f, hf⟩ := Option.ne_none_iff_exists'.1 hset
  exact step_of_latched hf

/-- Settles O23: the cycle runs the jump, and its target is the pc it came from. -/
theorem parkedStateIsFixed : Obligations.ParkedStateIsFixed := by
  rintro s ⟨hclear, nnn, hfetch, hself⟩
  have hpc : zextAddr nnn = s.pc := BitVec.eq_of_toNat_eq ((toNat_zextAddr nnn).trans hself)
  rw [step_of_instr hclear hfetch (decodeWord_encode _), exec_jp, hpc]

/-! ## Every cycle answers (R201) -/

section Answers
variable {s : State}

theorem checkedTransfer_answers (s : State) (length : Nat) (t : State) :
    ∃ u, settle s (s.checkedTransfer length t) = .next u := by
  rcases s.checkedTransfer_cases length t with ⟨-, -, hraised⟩ | ⟨-, hdone⟩
  · exact ⟨_, congrArg (settle s) hraised⟩
  · exact ⟨_, congrArg (settle s) hdone⟩

theorem keySkip_answers (s : State) (x : Nibble) (wanted : Bool) : ∃ t, settle s (s.keySkip x wanted) = .next t := by
  unfold State.keySkip
  split
  · exact ⟨_, rfl⟩
  · exact ⟨_, rfl⟩

theorem exec_call_answers (nnn : Addr12) (s : State) : ∃ t, exec (.call nnn) s = .next t := by
  rw [exec_call]
  rcases callTo_cases (zextAddr nnn) s with ⟨-, hraised⟩ | ⟨-, hdone⟩
  · exact ⟨_, congrArg (settle s) hraised⟩
  · exact ⟨_, congrArg (settle s) hdone⟩

/-- RET is the one instruction that can stop, and SP at most 15 rules that out (R28). -/
theorem exec_ret_answers (hsp : s.sp.toNat ≤ 15) : ∃ t, exec .ret s = .next t := by
  rcases returnFrom_cases s with ⟨-, hraised⟩ | ⟨habove, -⟩ | ⟨-, -, hdone⟩
  · rw [exec_ret, hraised]
    exact ⟨_, rfl⟩
  · omega
  · exact ⟨_, exec_ret_of_done hdone⟩

theorem execLdVxK_answers (x : Nibble) (s : State) : ∃ t, execLdVxK x s = .next t := by
  unfold execLdVxK
  split
  · exact ⟨_, rfl⟩
  · exact ⟨_, rfl⟩

theorem exec_answers (i : Instr) (hsp : s.sp.toNat ≤ 15) : ∃ t, exec i s = .next t := by
  cases i with
  | ret => exact exec_ret_answers hsp
  | call nnn => exact exec_call_answers nnn s
  | skp x => exact keySkip_answers s x true
  | sknp x => exact keySkip_answers s x false
  | ldVxK x => exact execLdVxK_answers x s
  | drw | ldBVx | ldMemIVx | ldVxMemI => exact checkedTransfer_answers s _ _
  | cls | jp | jpV0 | seVxKk | sneVxKk | seVxVy | sneVxVy | ldVxKk | addVxKk | ldVxVy | orVxVy | andVxVy | xorVxVy
  | addVxVy | subVxVy | shrVx | subnVxVy | shlVx | ldINnn | rndVxKk | ldVxDt | ldDtVx | ldStVx | addIVx | ldFVx =>
    exact ⟨_, rfl⟩

theorem execUnmatched_answers (w : Word) (s : State) : ∃ t, execUnmatched w s = .next t := by
  cases hpolicy : s.policy with
  | nop => exact ⟨_, execUnmatched_of_nop w hpolicy⟩
  | fault => exact ⟨_, execUnmatched_of_fault w hpolicy⟩

end Answers

/-- Settles O16: each branch of the cycle answers; only RET needs the invariant, for SP. -/
theorem stepAlwaysAnswersANextState : Obligations.StepAlwaysAnswersANextState := by
  rintro s ⟨-, hsp, -⟩
  cases hf : s.fault with
  | some f => exact ⟨s, step_of_latched hf⟩
  | none =>
    cases hfetch : s.fetch with
    | none => exact ⟨_, step_of_pc_past_end hf (s.fetch_eq_none.1 hfetch)⟩
    | some w =>
      cases hdecode : decodeWord w with
      | instr i =>
        rw [step_of_instr hf hfetch hdecode]
        exact exec_answers i hsp
      | unmatched w' =>
        rw [step_of_unmatched hf hfetch hdecode]
        exact execUnmatched_answers w' s

/-! ## The one cause in the latch (R170, R176) -/

section FaultingCycle
variable {i : Instr} {s t : State} {f : FaultRecord}

/-- Only a raise sets the latch: every other effect leaves it clear. -/
theorem ExecEffect.raised_of_latched (h : ExecEffect i s t) (hclear : s.fault = none) (hf : t.fault = some f) :
    t = { s with fault := some f } ∧ Raises s i f.cause f.info := by
  cases h with
  | raised hr =>
    obtain rfl := Option.some.inj hf
    exact ⟨rfl, hr⟩
  | moved n hn hsame => exact absurd ((hsame.fault.trans hclear).symm.trans hf) nofun
  | jumped | called | returned => exact absurd (hclear.symm.trans hf) nofun

/-- The instructions that transfer bytes at I, with the last address of each. -/
theorem instr_of_transferLength (hsome : 1 ≤ transferLength i) (hend : 4096 < s.i.toNat + transferLength i) :
    (∃ x y n, i = .drw x y n ∧ 1 ≤ n.toNat ∧ 4095 < s.i.toNat + (n.toNat - 1)) ∨
    (∃ x, i = .ldBVx x ∧ 4095 < s.i.toNat + 2) ∨
    (∃ x, (i = .ldMemIVx x ∨ i = .ldVxMemI x) ∧ 4095 < s.i.toNat + x.toNat) := by
  cases i with
  | drw x y n =>
    have hrows : 1 ≤ n.toNat := hsome
    have hlast : 4096 < s.i.toNat + n.toNat := hend
    exact .inl ⟨x, y, n, rfl, hrows, by omega⟩
  | ldBVx x => exact .inr (.inl ⟨x, rfl, Nat.lt_of_succ_lt_succ hend⟩)
  | ldMemIVx x => exact .inr (.inr ⟨x, .inl rfl, Nat.lt_of_succ_lt_succ hend⟩)
  | ldVxMemI x => exact .inr (.inr ⟨x, .inr rfl, Nat.lt_of_succ_lt_succ hend⟩)
  | _ => exact absurd hsome (Nat.not_succ_le_zero 0)

end FaultingCycle

/-- Settles O21: a cycle that sets the latch is a fetch past the end, an unmatched word under the strict policy, or an
instruction that raises; what it raises names the instruction. -/
theorem faultingCycleOnlySetsTheLatch : Obligations.FaultingCycleOnlySetsTheLatch := by
  intro s t f hclear h hf
  cases step_cases h with
  | frozen hset => exact absurd (hclear.symm.trans hset) nofun
  | fetchFault _ hpc ht =>
    subst ht
    obtain rfl := Option.some.inj hf
    exact ⟨rfl, .inl ⟨rfl, hpc⟩⟩
  | unmatchedNop _ _ _ _ _ ht =>
    subst ht
    exact absurd (hclear.symm.trans hf) nofun
  | @unmatchedFault w _ hfetch hdecode hpolicy ht =>
    subst ht
    obtain rfl := Option.some.inj hf
    exact ⟨rfl, .inr ⟨w, hfetch, .inl ⟨hdecode, hpolicy, rfl⟩⟩⟩
  | @instr w i _ _ hfetch hdecode hexec =>
    obtain ⟨ht, hraises⟩ := (exec_effect hexec).raised_of_latched hclear hf
    obtain ⟨cause, info⟩ := f
    refine ⟨ht, .inr ⟨w, hfetch, .inr ?_⟩⟩
    cases hraises with
    | @overflow nnn hsp => exact .inl ⟨nnn, hdecode, hsp, rfl⟩
    | underflow hsp => exact .inr (.inl ⟨hdecode, BitVec.eq_of_toNat_eq hsp, rfl⟩)
    | @key _ x hi hkey =>
      have hform : decodeWord w = .instr (.skp x) ∨ decodeWord w = .instr (.sknp x) := by simpa [hdecode] using hi
      exact .inr (.inr (.inl ⟨x, hform, hkey, rfl⟩))
    | transfer hsome hend =>
      refine .inr (.inr (.inr ⟨rfl, ?_⟩))
      rcases instr_of_transferLength hsome hend with
        ⟨x, y, n, rfl, hn, hlast⟩ | ⟨x, rfl, hlast⟩ | ⟨x, hi, hlast⟩
      · exact .inl ⟨x, y, n, hdecode, hn, hlast⟩
      · exact .inr (.inl ⟨x, hdecode, hlast⟩)
      · exact .inr (.inr ⟨x, by simpa [hdecode] using hi, hlast⟩)

theorem clearFault_of_latched {s : State} (hclear : s.fault = none) (latch : Option FaultRecord) :
    clearFault { s with fault := latch } = s := by
  rw [clearFault, ← hclear]

/-- Settles O22: by O21 the faulted state differs from `s` in the latch alone, so clearing it gives back `s`. -/
theorem clearedFaultIsRaisedAgain : Obligations.ClearedFaultIsRaisedAgain := by
  intro s t f hclear h hf
  obtain ⟨rfl, -⟩ := faultingCycleOnlySetsTheLatch s t f hclear h hf
  have hback := clearFault_of_latched hclear (some f)
  exact ⟨congrArg Host.Outcome.next hback, by rw [hback, h]⟩

end Sys2Proof.Machine
end

section
/-! PROOFS. The inputs of a cycle (spec/70_reset_and_hazards.md R204): an instruction that does not read the keys, or
does not draw a random byte, does the same whatever that input is. -/

namespace Sys2Proof.Machine

/-! ## A change of the inputs, carried through an answer -/

/-- The same state with other inputs: the keys changed by `g`, the number of the next random byte by `m`. -/
def State.mapInputs (g : Vector Bool 16 → Vector Bool 16) (m : Nat → Nat) (s : State) : State :=
  { s with keys := g s.keys, rndDraws := m s.rndDraws }

/-- A change of the next state an answer holds. -/
def mapNext (f : State → State) : Result → Result
  | .next t => .next (f t)
  | .fault reason => .fault reason
  | .refused reason => .refused reason

/-- A change of the state an attempt is done with. -/
def Attempt.mapDone (f : State → State) : Attempt → Attempt
  | .done t => .done (f t)
  | .raised cause info => .raised cause info
  | .stuck reason => .stuck reason

section MapInputs
variable (g : Vector Bool 16 → Vector Bool 16) (m : Nat → Nat) (s : State)

theorem settle_mapInputs (a : Attempt) :
    settle (s.mapInputs g m) (a.mapDone (State.mapInputs g m)) = mapNext (State.mapInputs g m) (settle s a) := by
  cases a <;> rfl

theorem skipIf_mapInputs (p : Bool) : (s.mapInputs g m).skipIf p = (s.skipIf p).mapInputs g m := by
  cases p <;> rfl

theorem checkedTransfer_mapInputs (length : Nat) (t : State) :
    (s.mapInputs g m).checkedTransfer length (t.mapInputs g m) =
      (s.checkedTransfer length t).mapDone (State.mapInputs g m) := by
  have hsame : (s.mapInputs g m).transferFault length = s.transferFault length := rfl
  unfold State.checkedTransfer
  rw [hsame]
  cases s.transferFault length <;> rfl

theorem callTo_mapInputs (target : Word) :
    callTo target (s.mapInputs g m) = (callTo target s).mapDone (State.mapInputs g m) := by
  rw [callTo.eq_def target s, apply_ite (Attempt.mapDone _)]
  rfl

theorem returnFrom_mapInputs :
    returnFrom (s.mapInputs g m) = (returnFrom s).mapDone (State.mapInputs g m) := by
  rw [returnFrom.eq_def s, apply_ite (Attempt.mapDone _), apply_ite (Attempt.mapDone _)]
  rfl

theorem keySkip_mapInputs (x : Nibble) (wanted : Bool) :
    (s.mapInputs id m).keySkip x wanted = (s.keySkip x wanted).mapDone (State.mapInputs id m) := by
  rw [State.keySkip.eq_def s, apply_ite (Attempt.mapDone _), Attempt.mapDone, Attempt.mapDone, ← skipIf_mapInputs]
  rfl

theorem andThen_advance_mapDone (a : Attempt) (n : Word) :
    ((a.mapDone (State.mapInputs g m)).andThen fun t => t.advance n) =
      (a.andThen fun t => t.advance n).mapDone (State.mapInputs g m) := by
  cases a <;> rfl

/-! ## The instructions under other inputs -/

theorem exec_skip_mapInputs {i : Instr} {p : State → Bool} (hexec : ∀ u, exec i u = .next (u.skipIf (p u)))
    (hp : p (s.mapInputs g m) = p s) : exec i (s.mapInputs g m) = mapNext (State.mapInputs g m) (exec i s) := by
  rw [hexec, hexec, hp, skipIf_mapInputs]
  rfl

theorem exec_transfer_mapInputs {i : Instr} {length : Nat} {effect : State → State}
    (hexec : ∀ u, exec i u = settle u (u.checkedTransfer length (effect u)))
    (heffect : effect (s.mapInputs g m) = (effect s).mapInputs g m) :
    exec i (s.mapInputs g m) = mapNext (State.mapInputs g m) (exec i s) := by
  rw [hexec, hexec, heffect, checkedTransfer_mapInputs, settle_mapInputs]

theorem exec_ldVxK_mapInputs (x : Nibble) :
    exec (.ldVxK x) (s.mapInputs id m) = mapNext (State.mapInputs id m) (exec (.ldVxK x) s) := by
  cases hkey : s.firstPressed with
  | some k =>
    rw [exec_ldVxK_of_some x hkey, exec_ldVxK_of_some (s := s.mapInputs id m) x hkey]
    rfl
  | none =>
    rw [exec_ldVxK_of_none x hkey, exec_ldVxK_of_none (s := s.mapInputs id m) x hkey]
    rfl

end MapInputs

/-- An instruction from a state with other inputs answers what it answered before, with those inputs: the keys are other
ones only where it does not read them, the draw only where it makes none. -/
theorem exec_mapInputs {g : Vector Bool 16 → Vector Bool 16} {m : Nat → Nat} {i : Instr}
    (hkeys : (∀ x, i ≠ .skp x ∧ i ≠ .sknp x ∧ i ≠ .ldVxK x) ∨ g = id)
    (hdraws : (∀ x kk, i ≠ .rndVxKk x kk) ∨ m = id) (s : State) :
    exec i (s.mapInputs g m) = mapNext (State.mapInputs g m) (exec i s) := by
  cases i with
  | skp x =>
    obtain rfl := hkeys.resolve_left fun hother => (hother x).1 rfl
    rw [exec_skp, exec_skp, keySkip_mapInputs, settle_mapInputs]
  | sknp x =>
    obtain rfl := hkeys.resolve_left fun hother => (hother x).2.1 rfl
    rw [exec_sknp, exec_sknp, keySkip_mapInputs, settle_mapInputs]
  | ldVxK x =>
    obtain rfl := hkeys.resolve_left fun hother => (hother x).2.2 rfl
    exact exec_ldVxK_mapInputs m s x
  | rndVxKk x kk =>
    obtain rfl := hdraws.resolve_left fun hother => hother x kk rfl
    rfl
  | ret =>
    rw [exec_ret, exec_ret, returnFrom_mapInputs, andThen_advance_mapDone, settle_mapInputs]
  | call nnn => rw [exec_call, exec_call, callTo_mapInputs, settle_mapInputs]
  | seVxKk x kk => exact exec_skip_mapInputs g m s (exec_seVxKk x kk) rfl
  | sneVxKk x kk => exact exec_skip_mapInputs g m s (exec_sneVxKk x kk) rfl
  | seVxVy x y => exact exec_skip_mapInputs g m s (exec_seVxVy x y) rfl
  | sneVxVy x y => exact exec_skip_mapInputs g m s (exec_sneVxVy x y) rfl
  | drw | ldBVx | ldMemIVx | ldVxMemI => exact exec_transfer_mapInputs g m s (fun _ => rfl) rfl
  | cls | jp | jpV0 | ldVxKk | addVxKk | ldVxVy | orVxVy | andVxVy | xorVxVy | addVxVy | subVxVy | shrVx | subnVxVy
  | shlVx | ldINnn | ldVxDt | ldDtVx | ldStVx | addIVx | ldFVx => rfl

/-- Settles O26: in each half one of the two inputs is another and the other stays. -/
theorem inputsMatterOnlyToTheirInstructions : Obligations.InputsMatterOnlyToTheirInstructions := by
  intro i s t h
  constructor
  · intro keys hkeys
    exact (exec_mapInputs (g := fun _ => keys) (.inl hkeys) (.inr rfl) s).trans (congrArg _ h)
  · intro n hdraws
    exact (exec_mapInputs (m := fun _ => n) (.inr rfl) (.inl hdraws) s).trans (congrArg _ h)

end Sys2Proof.Machine
end
